-- ==== Sys2Proof/Word.lean ====
section
/-! DEFINITION. The words of the RMC block (R6): 32-bit registers and host accesses, bytes of the host window
(R66), and the two stream buffers a command word can name (R90). -/

namespace Sys2Proof

/-- A register, a host access and a command word are 32 bits wide (R6). -/
abbrev Word := BitVec 32

/-- A byte of the host window (R66). -/
abbrev Byte := BitVec 8

/-- One of the two stream buffers BUF0 and BUF1 (R48). -/
inductive Buf where
  | buf0
  | buf1
deriving DecidableEq, Repr

end Sys2Proof
end

