-- ==== Sys2Proof/Syntax.lean ====
section
/-! DEFINITION. The commands of the block, one constructor per row of spec/opcode_table.json (R90, R92). -/

namespace Sys2Proof

/-- A command word of format CW with a defined OP (R90, R92). Every command carries its SRC and DST bits: the seven
stream commands use them (R92), BUILD ignores them (R94). The other operands are registers, read at issue (R96). -/
inductive Instr where
  | build (src dst : Buf)
  | encode (src dst : Buf)
  | matvec (src dst : Buf)
  | transmit (src dst : Buf)
  | decode (src dst : Buf)
  | interleave (src dst : Buf)
  | deinterleave (src dst : Buf)
  | checks (src dst : Buf)
deriving DecidableEq, Repr

end Sys2Proof
end

