-- ==== Sys2Proof/WellFormed.lean ====
section
/-! DEFINITION. Which commands have a legal word: a stream command names two different buffers (R94). -/

namespace Sys2Proof

/-- SRC differs from DST in every stream command; BUILD ignores both (R94). -/
def Instr.wf : Instr → Bool
  | .build _ _ => true
  | .encode src dst => src != dst
  | .matvec src dst => src != dst
  | .transmit src dst => src != dst
  | .decode src dst => src != dst
  | .interleave src dst => src != dst
  | .deinterleave src dst => src != dst
  | .checks src dst => src != dst

end Sys2Proof
end

