-- ==== Sys2Proof/Decode.lean ====
section
/-! DEFINITION. The command word format CW (R90), the total decode of every 32-bit word (R98) with a name for each
reason to reject, and the encoder written from the same tables (R90, R92). -/

namespace Sys2Proof

/-- Why a word is an IllegalCommand (R93, R94, R95). Raised by `decodeCW` and `decodeBytes` only; exact: each is the
spec's own rule, and `truncated` says that fewer than four bytes are no command word (R91). -/
inductive DecodeReject where
  | reservedBits
  | reservedOp
  | sameBuffer
  | truncated
deriving DecidableEq, Repr

/-- The buffer a SRC or DST bit names: 0 = BUF0, 1 = BUF1 (R90). -/
def Buf.ofBit : Bool → Buf
  | false => .buf0
  | true => .buf1

/-- The SRC or DST bit that names a buffer (R90). -/
def Buf.bit : Buf → Bool
  | .buf0 => false
  | .buf1 => true

/-- The field OP, bits [3:0] (R90). -/
def cwOp (w : Word) : BitVec 4 := w.extractLsb' 0 4

/-- The field SRC, bit 4 (R90). -/
def cwSrc (w : Word) : Buf := Buf.ofBit (w.getLsbD 4)

/-- The field DST, bit 5 (R90). -/
def cwDst (w : Word) : Buf := Buf.ofBit (w.getLsbD 5)

/-- The field RSV, bits [31:6], which must be 0 (R90). -/
def cwRsv (w : Word) : BitVec 26 := w.extractLsb' 6 26

/-- The opcode map (R92); 0x0 and 0x9 to 0xF are reserved (R93). -/
def instrOfOp (op : BitVec 4) (src dst : Buf) : Option Instr :=
  match op.toNat with
  | 1 => some (.build src dst)
  | 2 => some (.encode src dst)
  | 3 => some (.matvec src dst)
  | 4 => some (.transmit src dst)
  | 5 => some (.decode src dst)
  | 6 => some (.interleave src dst)
  | 7 => some (.deinterleave src dst)
  | 8 => some (.checks src dst)
  | _ => none

/-- DecodeCW (R98): every 32-bit word is one of the eight commands or is rejected by name. -/
def decodeCW (w : Word) : Except DecodeReject Instr :=
  if cwRsv w ≠ 0#26 then .error .reservedBits
  else
    match instrOfOp (cwOp w) (cwSrc w) (cwDst w) with
    | none => .error .reservedOp
    | some i => if i.wf then .ok i else .error .sameBuffer

/-- The word four bytes make, the first at the lowest address: little-endian (R66). -/
def wordOfBytes (b0 b1 b2 b3 : Byte) : Word := b3 ++ b2 ++ b1 ++ b0

/-- The four bytes of a word, in address order (R66). -/
def bytesOfWord (w : Word) : List Byte :=
  [w.extractLsb' 0 8, w.extractLsb' 8 8, w.extractLsb' 16 8, w.extractLsb' 24 8]

/-- The command word at the head of a byte sequence and the bytes after it (R66, R91). -/
def decodeBytes : List Byte → Except DecodeReject (Instr × List Byte)
  | b0 :: b1 :: b2 :: b3 :: rest => (decodeCW (wordOfBytes b0 b1 b2 b3)).map (·, rest)
  | _ => .error .truncated

/-- The OP of a command (R92). -/
def opField : Instr → BitVec 4
  | .build _ _ => 1#4
  | .encode _ _ => 2#4
  | .matvec _ _ => 3#4
  | .transmit _ _ => 4#4
  | .decode _ _ => 5#4
  | .interleave _ _ => 6#4
  | .deinterleave _ _ => 7#4
  | .checks _ _ => 8#4

/-- The SRC and DST operands of a command (R90). -/
def bufFields : Instr → Buf × Buf
  | .build src dst => (src, dst)
  | .encode src dst => (src, dst)
  | .matvec src dst => (src, dst)
  | .transmit src dst => (src, dst)
  | .decode src dst => (src, dst)
  | .interleave src dst => (src, dst)
  | .deinterleave src dst => (src, dst)
  | .checks src dst => (src, dst)

/-- The word of a command: RSV<<6 | DST<<5 | SRC<<4 | OP with RSV = 0 (R90). -/
def encode (i : Instr) : Word :=
  0#26 ++ BitVec.ofBool (bufFields i).2.bit ++ BitVec.ofBool (bufFields i).1.bit ++ opField i

/-- The bytes of a command word in address order (R66). -/
def encodeBytes (i : Instr) : List Byte := bytesOfWord (encode i)

/-- The word an opcode-table row's bits are, bits above `nbits` being 0: bit 0 is the least significant bit (R90). -/
def tableWord (nbits w : Nat) : Word := BitVec.ofNat 32 (w % 2 ^ nbits)

/-- What the decoder reads from an instruction whose bits are `w`, numbered as spec/opcode_table.json numbers them:
the word's four bytes, the least significant first, given to `decodeBytes` (R66, R90). -/
def decodeTableWord (nbits w : Nat) : Option Instr :=
  match decodeBytes (bytesOfWord (tableWord nbits w)) with
  | .ok (i, _) => some i
  | .error _ => none

end Sys2Proof
end

