-- ==== Sys2Proof/Config.lean ====
section
/-! DEFINITION. What is fixed for the block (R6) and what its rules leave free (R151, R231). -/

namespace Sys2Proof.Config

/-- The largest m of a constructible code, MMAX (R6). -/
def mMax : Nat := 8

/-- The capacity of each stream buffer in bits, BUFBITS (R6). -/
def bufBits : Nat := 65536

/-- The largest number of rows and of columns of a GRAM matrix, GROWS_MAX = GCOLS_MAX (R6). -/
def gramMax : Nat := 256

/-- The PE value that means pe = 1, PE_ONE (R6, R26). -/
def peOne : Nat := 65536

/-- The part identifier the ID register always reads as (R40). -/
def partId : Word := 0x524D0001#32

/-- What the byte at a window address of BUF0, BUF1 or GRAM holds after the `epoch`-th reset, before anything writes
it: unspecified, any value, fixed at reset (R231; log 1, log 2). -/
opaque powerOnByte (epoch address : Nat) : Byte

/-- The value the random-source port supplies as the `taken`-th draw, where State names none (R151; log 3). -/
opaque freeDraw (taken : Nat) : BitVec 16

end Sys2Proof.Config
end

