-- ==== Sys2Proof/Machine/State.lean ====
section
/-! DEFINITION. The state of the block (R49) and of the model's surroundings, the reasons a step can stop, and the
state after reset (R230). -/

namespace Sys2Proof.Machine

/-- Why a step stops with a fault. -/
inductive Fault where
  /-- A host access, while a command runs, to a memory that command uses: UNPREDICTABLE, and "a model treats such an
  access as a fault" (R69, R242). Raised by `hostMemRead` and `hostMemWrite` (HostPort.lean) only. Safe: nothing is
  claimed of a run past it. -/
  | unpredictableAccess
deriving DecidableEq, Repr

/-- Why a step is refused. -/
inductive Refusal where
  /-- The command of this opcode-table mnemonic has no meaning in the model. Raised by `exec` only, in an arm that is
  still empty; no arm is. Safe: the machine stops. -/
  | notModelled (mnemonic : String)
deriving DecidableEq, Repr

/-- The opcodes of the latched command (R44, R92). -/
inductive Opcode where
  | build
  | encode
  | matvec
  | transmit
  | decode
  | interleave
  | deinterleave
  | checks
deriving DecidableEq, Repr

/-- The error codes of STATUS.ERR (R204); codes 7 to 15 are never produced. -/
inductive ErrCode where
  | none
  | invalidParameter
  | lengthMismatch
  | dimensionMismatch
  | notBuilt
  | capacity
  | illegalCommand
deriving DecidableEq, Repr

/-- The latched command record LC (R44): each command fills `op`, `src`, `dst`, `T`, `IB`, `OB` and the operand fields
named below for it; the operand fields of the other commands hold 0 (log 6). -/
structure Latched where
  op : Opcode
  src : Buf
  dst : Buf
  /-- The number of block steps. -/
  T : Nat
  /-- Input bits per block. -/
  IB : Nat
  /-- Output bits per block. -/
  OB : Nat
  /-- PE, of TRANSMIT. -/
  pe : Word
  /-- ILV.IROWS, of INTERLEAVE and DEINTERLEAVE. -/
  irows : BitVec 16
  /-- ILV.ICOLS, of INTERLEAVE and DEINTERLEAVE. -/
  icols : BitVec 16
  /-- The code's r: BR, of ENCODE, DECODE and CHECKS; CFG.R, of BUILD (R110). -/
  r : BitVec 4
  /-- The code's m: BM, of ENCODE, DECODE and CHECKS; CFG.M, of BUILD (R110). -/
  m : BitVec 4
  /-- CODE.K, of ENCODE, DECODE and CHECKS. -/
  K : BitVec 16
  /-- CODE.N, of ENCODE, DECODE and CHECKS. -/
  N : BitVec 16
  /-- GSHAPE.GROWS, of ENCODE and MATVEC. -/
  grows : BitVec 16
  /-- GSHAPE.GCOLS, of ENCODE and MATVEC. -/
  gcols : BitVec 16
deriving DecidableEq, Repr

/-- The width of a host access; only `word` is supported (R61). -/
inductive Width where
  | byte
  | half
  | word
deriving DecidableEq, Repr

/-- One step of one agent (R20): a host read or write at the slave port (R60), whose address is the 16 bits the port
decodes; a sequencer step (R201); the reset input (R230). -/
inductive Input where
  | read (width : Width) (addr : BitVec 16)
  | write (width : Width) (addr : BitVec 16) (value : Word)
  | sequencer
  | reset
deriving DecidableEq, Repr

/-- What the slave port answered to the last host access: nothing yet, a read's value, a write done, or a bus error,
with which "a read returns no data" (R60, R61; log 5). -/
inductive Response where
  | noAccess
  | data (value : Word)
  | written
  | busError
deriving DecidableEq, Repr

/-- The surroundings of the block: the model's own fields, no state of the spec's (log 1 to log 5, log 14). -/
structure Env where
  /-- The steps that come next, oldest first (R20, R73; log 4). -/
  inputs : List Input
  /-- The values the random-source port will supply, next first (R151; log 3). -/
  port : List (BitVec 16)
  /-- How many draws have been taken (R151; log 3). -/
  drawn : Nat
  /-- How many resets have been taken (R231; log 2). -/
  epoch : Nat
  /-- The port's answer to the last host access (log 5). -/
  response : Response
deriving DecidableEq, Repr

/-- The memories BUF0, BUF1 and GRAM (R48) as the bytes written since reset, by window address (R62, R66), addresses
strictly rising; an address that is not listed has not been written (log 1). -/
abbrev Memory := List Host.Cell

/-- The state record (R49). STATUS.BUSY has no field: "LC is present exactly while BUSY = 1" (R44), so BUSY is read off
`lc` (`State.busy`; log 7). -/
structure State where
  /-- CFG.M (R22). -/
  cfgM : BitVec 4
  /-- CFG.R (R22). -/
  cfgR : BitVec 4
  /-- STATUS.BUILT (R30). -/
  built : Bool
  /-- BUILTCFG.BR (R24). -/
  BR : BitVec 4
  /-- BUILTCFG.BM (R24). -/
  BM : BitVec 4
  /-- CODE.K (R23). -/
  K : BitVec 16
  /-- CODE.N (R23). -/
  N : BitVec 16
  /-- GSHAPE.GROWS (R25). -/
  grows : BitVec 16
  /-- GSHAPE.GCOLS (R25). -/
  gcols : BitVec 16
  /-- PE (R26). -/
  pe : Word
  /-- ILV.IROWS (R27). -/
  irows : BitVec 16
  /-- ILV.ICOLS (R27). -/
  icols : BitVec 16
  /-- LEN (R28). -/
  len : Word
  /-- STATUS.DONE (R30). -/
  done : Bool
  /-- STATUS.DROPPED (R30, R32). -/
  dropped : Bool
  /-- STATUS.ABORTED (R30). -/
  aborted : Bool
  /-- STATUS.ERR (R30, R204). -/
  err : ErrCode
  /-- OUTLEN (R34). -/
  outlen : Word
  /-- BLOCKS, the sequencer's next block index (R35, R43). -/
  blocks : Word
  /-- FLIPS (R38). -/
  flips : Word
  /-- IRQEN.IE (R39). -/
  ie : Bool
  /-- BUF0, BUF1 and GRAM (R48). -/
  mem : Memory
  /-- LC (R44). -/
  lc : Option Latched
  /-- The abort request (R45). -/
  abortPending : Bool
  /-- The model's surroundings. -/
  env : Env
deriving DecidableEq, Repr

/-- Every register and hidden element at its reset value (R230), the memories unwritten (R231), nothing waiting in the
surroundings (log 14). -/
def State.reset : State where
  cfgM := 0#4
  cfgR := 0#4
  built := false
  BR := 0#4
  BM := 0#4
  K := 0#16
  N := 0#16
  grows := 0#16
  gcols := 0#16
  pe := 0#32
  irows := 0#16
  icols := 0#16
  len := 0#32
  done := false
  dropped := false
  aborted := false
  err := .none
  outlen := 0#32
  blocks := 0#32
  flips := 0#32
  ie := false
  mem := []
  lc := none
  abortPending := false
  env := { inputs := [], port := [], drawn := 0, epoch := 0, response := .noAccess }

end Sys2Proof.Machine
end

