-- ==== Sys2Proof/Machine/Ops.lean ====
section
/-! DEFINITION. The shared operations: bytes, bits and words of the memories (R63–R66), taking a random draw (R151),
and the command life cycle: beginning an issue, failing it, accepting it, completing (R200–R203). -/

namespace Sys2Proof.Machine

/-! ### Memory -/

/-- The byte listed at an address, if any has been written since reset. -/
def Memory.get? : Memory → Nat → Option Byte
  | [], _ => none
  | (k, v) :: rest, a => if k = a then some v else Memory.get? rest a

/-- The `count` cells from address `lo` on, holding `f` of their addresses. -/
def Memory.cells (f : Nat → Byte) : Nat → Nat → Memory
  | _, 0 => []
  | lo, count + 1 => (lo, f lo) :: Memory.cells f (lo + 1) count

/-- Write `f a` to every address `a` of `[lo, lo + count)`: the one way memory changes. -/
def Memory.put (m : Memory) (lo count : Nat) (f : Nat → Byte) : Memory :=
  m.filter (fun c => c.1 < lo) ++ Memory.cells f lo count ++ m.filter (fun c => lo + count ≤ c.1)

/-- The first window address of the memories, BUF0's base (R62). -/
def memLo : Nat := 0x4000

/-- The first window address after the memories (R62). -/
def memHi : Nat := 0xA000

/-- The canonical form of memory: strictly rising addresses, all of them addresses of BUF0, BUF1 or GRAM (log 1). -/
abbrev Memory.wf (m : Memory) : Prop :=
  m.Pairwise (fun c d => c.1 < d.1) ∧ ∀ c ∈ m, memLo ≤ c.1 ∧ c.1 < memHi

/-- The byte at a window address of the memories: what was written since reset, else its unspecified reset contents
(R231; log 1). -/
def State.byteAt (s : State) (a : Nat) : Byte :=
  (s.mem.get? a).getD (Config.powerOnByte s.env.epoch a)

/-- Write `f a` to every window address `a` of `[lo, lo + count)`. -/
def State.putBytes (s : State) (lo count : Nat) (f : Nat → Byte) : State :=
  { s with mem := s.mem.put lo count f }

/-- The byte whose bit `b` is `f b`. -/
def byteOf (f : Nat → Bool) : Byte := BitVec.ofFnLE (fun b : Fin 8 => f b.val)

/-- MemWord (R64): the word at a window address, little-endian (R66). -/
def State.wordAt (s : State) (a : Nat) : Word :=
  s.byteAt (a + 3) ++ s.byteAt (a + 2) ++ s.byteAt (a + 1) ++ s.byteAt a

/-- Write the word at a window address: all 32 bits (R64), little-endian (R66). -/
def State.putWord (s : State) (a : Nat) (w : Word) : State :=
  s.putBytes a 4 (fun x => w.extractLsb' (8 * (x - a)) 8)

/-- B_b, the window address of stream bit 0 of a buffer (R63). -/
def bufBase : Buf → Nat
  | .buf0 => 0x4000
  | .buf1 => 0x6000

/-- The window address of GRAM row 0 (R65). -/
def gramBase : Nat := 0x8000

/-- BufBit(b, i) (R64): stream bit `i` is bit `i mod 8` of byte `i div 8` of the buffer, by R63 and R66. -/
def State.bufBit (s : State) (b : Buf) (i : Nat) : Bool :=
  (s.byteAt (bufBase b + i / 8)).getLsbD (i % 8)

/-- GBit(i, j) (R65): row `i` takes 32 bytes, and column `j` is bit `j mod 8` of byte `j div 8` of them, by R66. -/
def State.gBit (s : State) (i j : Nat) : Bool :=
  (s.byteAt (gramBase + 32 * i + j / 8)).getLsbD (j % 8)

/-- How many bytes hold the stream bits `[off, off + len)`. -/
def bitSpan (off len : Nat) : Nat :=
  if len = 0 then 0 else (off + len - 1) / 8 - off / 8 + 1

/-- SetBufBit(b, off + j, f j) for every `j < len` (R64), every other bit keeping its value (R71). -/
def State.setBufBits (s : State) (b : Buf) (off len : Nat) (f : Nat → Bool) : State :=
  s.putBytes (bufBase b + off / 8) (bitSpan off len) (fun a =>
    byteOf (fun q =>
      let i := 8 * (a - bufBase b) + q
      if off ≤ i ∧ i < off + len then f (i - off) else (s.byteAt a).getLsbD q))

/-- SetGBit(i, j, g i j) for every `i` and `j` below 256 (R65): all of GRAM. -/
def State.setGram (s : State) (g : Nat → Nat → Bool) : State :=
  s.putBytes gramBase 8192 (fun a =>
    byteOf (fun q => g ((a - gramBase) / 32) (8 * ((a - gramBase) % 32) + q)))

/-! ### GF(2) sums -/

/-- The sum over GF(2) of `f i` for `i < count` (R9). -/
def xorSum (f : Nat → Bool) : Nat → Bool
  | 0 => false
  | count + 1 => xor (xorSum f count) (f count)

/-! ### The random-source port -/

/-- The value Draw16() takes next (R151): the port's next value, else a free one (log 3). -/
def State.nextDraw (s : State) : BitVec 16 :=
  match s.env.port with
  | u :: _ => u
  | [] => Config.freeDraw s.env.drawn

/-- The state once Draw16() has taken its value (R151). -/
def State.afterDraw (s : State) : State :=
  { s with env := { s.env with port := s.env.port.tail, drawn := s.env.drawn + 1 } }

/-! ### The command life cycle -/

/-- STATUS.BUSY: a command is running, which is when LC is present (R30, R44; log 7). -/
def State.busy (s : State) : Bool := s.lc.isSome

/-- A CMD write while BUSY = 1 only sets DROPPED (R32, R200). -/
def State.drop (s : State) : State := { s with dropped := true }

/-- What every issue that is not dropped clears first: ABORTED, OUTLEN and BLOCKS (R200). -/
def State.beginIssue (s : State) : State :=
  { s with aborted := false, outlen := 0#32, blocks := 0#32 }

/-- Fail(code) (R202): ERR and DONE, and nothing else. This is how the block enters an error (R208). -/
def State.fail (s : State) (code : ErrCode) : State := { s with err := code, done := true }

/-- Complete(aborted) (R203). -/
def State.complete (s : State) (aborted : Bool) : State :=
  { s with lc := none, done := true, aborted := aborted, abortPending := false }

/-- The end of an issue whose checks passed (R200): ERR, DONE and the abort request are cleared, a TRANSMIT clears
FLIPS, and the command runs, or completes at once when it has no block step. -/
def State.accept (s : State) (c : Latched) : State :=
  let t : State :=
    { s with
      err := .none
      done := false
      abortPending := false
      flips := if c.op = .transmit then 0#32 else s.flips
      lc := some c }
  if c.T = 0 then t.complete false else t

/-- OnWriteCMD from its test of BUSY on (R200), for a command whose ordered issue checks give `checks` (R206). -/
def State.issue (s : State) (checks : Except ErrCode Latched) : State :=
  if s.busy then s.drop
  else
    match checks with
    | .error code => s.beginIssue.fail code
    | .ok c => s.beginIssue.accept c

/-- The acknowledgement of a completion, the host's write to STATUS (R31, R209): bit 2 clears DONE, bit 3 clears
DROPPED, and no other bit has an effect. -/
def State.writeStatus (s : State) (v : Word) : State :=
  { s with done := s.done && !v.getLsbD 2, dropped := s.dropped && !v.getLsbD 3 }

/-- The host's write to ABORT (R37): bit 0 sets the abort request while a command runs. -/
def State.writeAbort (s : State) (v : Word) : State :=
  { s with abortPending := s.abortPending || (v.getLsbD 0 && s.busy) }

/-- The reset input (R230): every register and hidden element at its reset value, and the memories' contents
unspecified anew (R231; log 2). What waits in the surroundings stays. -/
def State.resetBlock (s : State) : State :=
  { State.reset with
    env := { s.env with epoch := s.env.epoch + 1, response := .noAccess } }

end Sys2Proof.Machine
end

