-- ==== Sys2Proof/Machine/Flags.lean ====
section
/-! DEFINITION. The flags: the error codes, the STATUS word (R30, R204), the interrupt output (R210), the padding count
(R36) and the majority vote (R169). -/

namespace Sys2Proof.Machine

/-- The 4-bit code STATUS.ERR shows (R204). -/
def ErrCode.code : ErrCode → BitVec 4
  | .none => 0#4
  | .invalidParameter => 1#4
  | .lengthMismatch => 2#4
  | .dimensionMismatch => 3#4
  | .notBuilt => 4#4
  | .capacity => 5#4
  | .illegalCommand => 6#4

/-- The STATUS register (R30): BUSY, BUILT, DONE, DROPPED and ABORTED in bits 0 to 4, ERR in [11:8], 0 elsewhere. -/
def State.statusWord (s : State) : Word :=
  0#20 ++ s.err.code ++ 0#3 ++ BitVec.ofBool s.aborted ++ BitVec.ofBool s.dropped ++ BitVec.ofBool s.done ++
    BitVec.ofBool s.built ++ BitVec.ofBool s.busy

/-- The interrupt output, a level (R39, R210). -/
def State.irq (s : State) : Bool := s.done && s.ie

/-- PADCNT (R36): the number of zero bits that pads LEN to a multiple of K. -/
def State.padCount (s : State) : Nat :=
  if s.built then (s.K.toNat - s.len.toNat % s.K.toNat) % s.K.toNat else 0

/-- The majority vote (R169): strictly more than half decide; a tie gives 0. -/
def majority (ones total : Nat) : Bool :=
  if 2 * ones > total then true
  else if 2 * ones < total then false
  else false

end Sys2Proof.Machine
end

