-- ==== Sys2Proof/Machine/Operands.lean ====
section
/-! DEFINITION. The registers a host access names (R21), their reads (R22–R40) and their stores (R41, R42, R70), the
operands a command latches at issue (R44, R96), and the source bits a block step reads (R67). -/

namespace Sys2Proof.Machine

/-- The registers of the map (R21). -/
inductive Reg where
  | id
  | cfg
  | code
  | builtcfg
  | gshape
  | pe
  | ilv
  | len
  | cmd
  | status
  | outlen
  | blocks
  | abort
  | padcnt
  | flips
  | irqen
deriving DecidableEq, Repr

/-- The byte offset of a register (R21). -/
def Reg.offset : Reg → Nat
  | .id => 0x000
  | .cfg => 0x004
  | .code => 0x008
  | .builtcfg => 0x00C
  | .gshape => 0x010
  | .pe => 0x014
  | .ilv => 0x018
  | .len => 0x01C
  | .cmd => 0x020
  | .status => 0x024
  | .outlen => 0x028
  | .blocks => 0x02C
  | .abort => 0x030
  | .padcnt => 0x034
  | .flips => 0x038
  | .irqen => 0x03C

/-- The register at a byte offset (R21). -/
def Reg.atOffset (a : Nat) : Option Reg :=
  match a with
  | 0x000 => some .id
  | 0x004 => some .cfg
  | 0x008 => some .code
  | 0x00C => some .builtcfg
  | 0x010 => some .gshape
  | 0x014 => some .pe
  | 0x018 => some .ilv
  | 0x01C => some .len
  | 0x020 => some .cmd
  | 0x024 => some .status
  | 0x028 => some .outlen
  | 0x02C => some .blocks
  | 0x030 => some .abort
  | 0x034 => some .padcnt
  | 0x038 => some .flips
  | 0x03C => some .irqen
  | _ => none

/-- What a host read of a register returns (R22–R40); reserved fields read 0 (R41), CMD and ABORT read 0 (R29, R37). -/
def State.readReg (s : State) : Reg → Word
  | .id => Config.partId
  | .cfg => 0#24 ++ s.cfgR ++ s.cfgM
  | .code => s.N ++ s.K
  | .builtcfg => 0#24 ++ s.BR ++ s.BM
  | .gshape => s.gcols ++ s.grows
  | .pe => s.pe
  | .ilv => s.icols ++ s.irows
  | .len => s.len
  | .cmd => 0#32
  | .status => s.statusWord
  | .outlen => s.outlen
  | .blocks => s.blocks
  | .abort => 0#32
  | .padcnt => BitVec.ofNat 32 s.padCount
  | .flips => s.flips
  | .irqen => 0#31 ++ BitVec.ofBool s.ie

/-- What a host write to a register other than CMD stores: the fields of CFG, GSHAPE, PE, ILV, LEN and IRQEN (R22,
R25–R28, R39), the write-1-to-clear bits of STATUS (R31), the abort request (R37), and nothing in a read-only register
(R42). A write to CMD stores nothing (R29); the command it issues is `onWriteCmd`. -/
def State.storeReg (s : State) (r : Reg) (v : Word) : State :=
  match r with
  | .cfg => { s with cfgM := v.extractLsb' 0 4, cfgR := v.extractLsb' 4 4 }
  | .gshape => { s with grows := v.extractLsb' 0 16, gcols := v.extractLsb' 16 16 }
  | .pe => { s with pe := v }
  | .ilv => { s with irows := v.extractLsb' 0 16, icols := v.extractLsb' 16 16 }
  | .len => { s with len := v }
  | .status => s.writeStatus v
  | .abort => s.writeAbort v
  | .irqen => { s with ie := v.getLsbD 0 }
  | .id => s
  | .code => s
  | .builtcfg => s
  | .cmd => s
  | .outlen => s
  | .blocks => s
  | .padcnt => s
  | .flips => s

/-- A latched command with its geometry T, IB and OB (R97) and no other operand (R44; log 6). -/
def latch (op : Opcode) (src dst : Buf) (T IB OB : Nat) : Latched where
  op := op
  src := src
  dst := dst
  T := T
  IB := IB
  OB := OB
  pe := 0#32
  irows := 0#16
  icols := 0#16
  r := 0#4
  m := 0#4
  K := 0#16
  N := 0#16
  grows := 0#16
  gcols := 0#16

/-- The check that comes before every other check of a stream command: SRC = DST is an IllegalCommand (R94, R206). -/
def distinctBufs (src dst : Buf) (rest : Except ErrCode Latched) : Except ErrCode Latched :=
  if src = dst then .error .illegalCommand else rest

/-- Bit `i` of source block `t` of the running command: stream bit t·IB + i of its source buffer (R67). -/
def State.srcBit (s : State) (c : Latched) (t i : Nat) : Bool := s.bufBit c.src (t * c.IB + i)

/-- Write output block `t` of the running command: the destination bits [t·OB, (t+1)·OB) (R67, R71). -/
def State.putBlock (s : State) (c : Latched) (t : Nat) (f : Nat → Bool) : State :=
  s.setBufBits c.dst (t * c.OB) c.OB f

end Sys2Proof.Machine
end

