-- ==== Sys2Proof/Machine/Channel.lean ====
section
/-! DEFINITION. The binary symmetric channel: TRANSMIT (R150–R153). -/

namespace Sys2Proof.Machine

/-- The issue checks of TRANSMIT (R150). -/
def transmitChecks (src dst : Buf) (s : State) : Except ErrCode Latched :=
  let len := s.len.toNat
  distinctBufs src dst <|
    if s.pe.toNat > Config.peOne then .error .invalidParameter
    else if len > Config.bufBits then .error .capacity
    else .ok { latch .transmit src dst len 1 1 with pe := s.pe }

/-- The issue of TRANSMIT (R150, R200). -/
def execTransmit (src dst : Buf) (s : State) : Host.Outcome State Fault Refusal :=
  .next (s.issue (transmitChecks src dst s))

/-- Is a bit with draw `u` flipped at error probability `pe`? Iff the draw is below PE, unsigned (R152). -/
def flipped (u : BitVec 16) (pe : Word) : Bool := decide (u.toNat < pe.toNat)

/-- Block step `t` of TRANSMIT (R150): one bit, one draw (R151), FLIPS counting the flip (R152). -/
def transmitBlock (c : Latched) (t : Nat) (s : State) : State :=
  let f := flipped s.nextDraw c.pe
  let u := s.afterDraw.putBlock c t (fun i => xor (s.srcBit c t i) f)
  { u with flips := if f then s.flips + 1#32 else s.flips }

end Sys2Proof.Machine
end

