-- ==== Sys2Proof/Machine/MatrixBuilder.lean ====
section
/-! DEFINITION. The matrix builder: the code's monomials, generator matrix and checks (R112–R116), and BUILD (R110). -/

namespace Sys2Proof.Machine

/-! ### The code's matrices -/

/-- The sublists of `xs` with `d` elements, in lexicographic order. -/
def choices : List Nat → Nat → List (List Nat)
  | _, 0 => [[]]
  | [], _ + 1 => []
  | x :: xs, d + 1 => (choices xs d).map (x :: ·) ++ choices xs (d + 1)

/-- The monomials of degree `d`: the d-element subsets of {1..m}, each sorted ascending, in lexicographic order
(R113). -/
def monosOfDegree (m d : Nat) : List (List Nat) := choices (List.range' 1 m) d

/-- The generator rows of RM(r, m): the monomials of degree at most `r`, by degree, then lexicographically (R113). -/
def monos (r m : Nat) : List (List Nat) := (List.range (r + 1)).flatMap (monosOfDegree m)

/-- Coordinate x_i of position `j`: bit i - 1 of `j` (R112). -/
def coord (i j : Nat) : Bool := j.testBit (i - 1)

/-- The value of monomial `S` at position `j`, an entry of its generator row (R114). -/
def monoAt (S : List Nat) (j : Nat) : Bool := S.all (fun i => coord i j)

/-- G(r, m)[t][j] (R114); 0 outside the k rows. -/
def genEntry (r m t j : Nat) : Bool :=
  match (monos r m)[t]? with
  | some S => monoAt S j
  | none => false

/-- k, the number of generator rows: the sum of C(m, i) for i ≤ r (R5). -/
def codeDim (r m : Nat) : Nat := ((List.range (r + 1)).map (m.choose ·)).sum

/-- n, the codeword length (R5). -/
def codeLen (m : Nat) : Nat := 2 ^ m

/-- The coordinates outside `S`, ascending: T = {1..m} \ S (R115). -/
def outside (m : Nat) (S : List Nat) : List Nat := (List.range' 1 m).filter (fun i => !S.contains i)

/-- Do the coordinates `ts` of position `j` equal the bits of `b` from bit `l` on? -/
def coordsMatch : List Nat → Nat → Nat → Nat → Bool
  | [], _, _, _ => true
  | t :: ts, l, b, j => (coord t j == b.testBit l) && coordsMatch ts (l + 1) b j

/-- j ∈ P(S, b) (R115), which is H_d[(S, b)][j] (R116). -/
def inCheck (m : Nat) (S : List Nat) (b j : Nat) : Bool := coordsMatch (outside m S) 0 b j

/-- The check sum σ(S, b, y) (R115), an entry of the syndrome (R116). -/
def checkSum (m : Nat) (S : List Nat) (b : Nat) (y : Nat → Bool) : Bool :=
  xorSum (fun j => inCheck m S b j && y j) (codeLen m)

/-! ### BUILD -/

/-- The issue checks of BUILD (R110); SRC and DST are ignored (R94; log 6). -/
def buildChecks (s : State) : Except ErrCode Latched :=
  if s.cfgM.toNat > Config.mMax ∨ s.cfgR.toNat > s.cfgM.toNat then .error .invalidParameter
  else .ok { latch .build .buf0 .buf0 1 0 0 with r := s.cfgR, m := s.cfgM }

/-- The issue of BUILD (R110, R200); SRC and DST are ignored (R94). -/
def execBuild (_src _dst : Buf) (s : State) : Host.Outcome State Fault Refusal :=
  .next (s.issue (buildChecks s))

/-- The bit BUILD leaves in GRAM at row `i`, column `j` (R110, R111). -/
def builtEntry (r m : Nat) : Nat → Nat → Bool :=
  let rows := monos r m
  let k := codeDim r m
  fun i j => decide (i < k) && decide (j < codeLen m) && monoAt (rows.getD i []) j

/-- Block step 0 of BUILD (R110): GRAM, CODE, GSHAPE, BUILTCFG and BUILT. -/
def buildBlock (c : Latched) (s : State) : State :=
  let k := BitVec.ofNat 16 (codeDim c.r.toNat c.m.toNat)
  let n := BitVec.ofNat 16 (codeLen c.m.toNat)
  { s.setGram (builtEntry c.r.toNat c.m.toNat) with
    K := k
    N := n
    grows := k
    gcols := n
    BR := c.r
    BM := c.m
    built := true }

end Sys2Proof.Machine
end

