-- ==== Sys2Proof/Machine/Decoder.lean ====
section
/-! DEFINITION. The majority-logic decoder and the syndrome unit: DECODE (R165–R172) and CHECKS (R175). -/

namespace Sys2Proof.Machine

/-! ### The block decoder -/

/-- How many of the checks of monomial `S` come out 1 on the residual `res` (R166). -/
def onesOf (m : Nat) (S : List Nat) (res : List Bool) : Nat :=
  (List.range (2 ^ (m - S.length))).countP (fun b => checkSum m S b (res.getD · false))

/-- The decisions of stage `d` in row order, each a majority over its checks of the residual at the start of the
stage (R166, R168, R169). -/
def stageDecisions (m d : Nat) (res : List Bool) : List Bool :=
  (monosOfDegree m d).map (fun S => majority (onesOf m S res) (2 ^ (m - d)))

/-- The sum at position `j` of the rows `S` whose coefficient was decided 1. -/
def contribution : List (List Nat) → List Bool → Nat → Bool
  | S :: Ss, u :: us, j => xor (u && monoAt S j) (contribution Ss us j)
  | _, _, _ => false

/-- The residual after stage `d`: less the contribution of the coefficients `us` it decided (R170). -/
def subtractStage (m d : Nat) (us res : List Bool) : List Bool :=
  (List.range (codeLen m)).map (fun j => xor (res.getD j false) (contribution (monosOfDegree m d) us j))

/-- The stages d - 1, …, 0 on a residual (R168), the decisions listed in row order, lowest degree first (R171). -/
def decodeStages (m : Nat) : Nat → List Bool → List Bool
  | 0, _ => []
  | d + 1, res =>
    let us := stageDecisions m d res
    decodeStages m d (subtractStage m d us res) ++ us

/-- ReedDecode(y, r, m) (R166): stages r, …, 0. -/
def reedDecode (y : List Bool) (r m : Nat) : List Bool := decodeStages m (r + 1) y

/-! ### DECODE -/

/-- The issue checks of DECODE (R165); it latches the built code (R44). -/
def decodeChecks (src dst : Buf) (s : State) : Except ErrCode Latched :=
  let n := s.N.toNat
  let len := s.len.toNat
  distinctBufs src dst <|
    if s.built = false then .error .notBuilt
    else if len % n ≠ 0 then .error .lengthMismatch
    else if len > Config.bufBits then .error .capacity
    else
      .ok { latch .decode src dst (len / n) n s.K.toNat with
            r := s.BR, m := s.BM, K := s.K, N := s.N }

/-- The issue of DECODE (R165, R200). -/
def execDecode (src dst : Buf) (s : State) : Host.Outcome State Fault Refusal :=
  .next (s.issue (decodeChecks src dst s))

/-- The received block `t` of the running command, element 0 the lowest stream index (R67, R165). -/
def State.srcBlock (s : State) (c : Latched) (t : Nat) : List Bool := (List.range c.IB).map (s.srcBit c t)

/-- Block step `t` of DECODE (R165). -/
def decodeBlock (c : Latched) (t : Nat) (s : State) : State :=
  let u := reedDecode (s.srcBlock c t) c.r.toNat c.m.toNat
  s.putBlock c t (u.getD · false)

/-! ### CHECKS -/

/-- W, the number of rows of H_r (R175): C(m, r) · 2^(m - r). -/
def syndromeLen (r m : Nat) : Nat := m.choose r * 2 ^ (m - r)

/-- The issue checks of CHECKS (R175); it latches the built code (R44). -/
def checksChecks (src dst : Buf) (s : State) : Except ErrCode Latched :=
  let n := s.N.toNat
  let len := s.len.toNat
  let w := syndromeLen s.BR.toNat s.BM.toNat
  distinctBufs src dst <|
    if s.built = false then .error .notBuilt
    else if len % n ≠ 0 then .error .lengthMismatch
    else if len > Config.bufBits ∨ len / n * w > Config.bufBits then .error .capacity
    else
      .ok { latch .checks src dst (len / n) n w with
            r := s.BR, m := s.BM, K := s.K, N := s.N }

/-- The issue of CHECKS (R175, R200). -/
def execChecks (src dst : Buf) (s : State) : Host.Outcome State Fault Refusal :=
  .next (s.issue (checksChecks src dst s))

/-- The stage-r syndrome of a block: σ(S, b, y) for every monomial of degree `r` in row order and every `b` ascending
(R116, R175). -/
def syndrome (r m : Nat) (y : Nat → Bool) : List Bool :=
  (monosOfDegree m r).flatMap (fun S => (List.range (2 ^ (m - r))).map (fun b => checkSum m S b y))

/-- Block step `t` of CHECKS (R175). -/
def checksBlock (c : Latched) (t : Nat) (s : State) : State :=
  let q := syndrome c.r.toNat c.m.toNat (s.srcBit c t)
  s.putBlock c t (q.getD · false)

end Sys2Proof.Machine
end

