-- ==== Sys2Proof/Machine/Encoder.lean ====
section
/-! DEFINITION. The GF(2) multiplier and the encoder: MATVEC (R130, R131) and ENCODE (R135). -/

namespace Sys2Proof.Machine

/-- MatVec(x, a, b)[j] with the matrix in GRAM (R130): the sum over i < a of x[i] · GBit(i, j). -/
def matVec (s : State) (a : Nat) (x : Nat → Bool) (j : Nat) : Bool :=
  xorSum (fun i => x i && s.gBit i j) a

/-! ### MATVEC -/

/-- The issue checks of MATVEC (R131); it latches GSHAPE (R44). -/
def matvecChecks (src dst : Buf) (s : State) : Except ErrCode Latched :=
  let a := s.grows.toNat
  let b := s.gcols.toNat
  let len := s.len.toNat
  distinctBufs src dst <|
    if a = 0 ∨ a > Config.gramMax ∨ b = 0 ∨ b > Config.gramMax then .error .dimensionMismatch
    else if len % a ≠ 0 then .error .lengthMismatch
    else if len > Config.bufBits ∨ len / a * b > Config.bufBits then .error .capacity
    else .ok { latch .matvec src dst (len / a) a b with grows := s.grows, gcols := s.gcols }

/-- The issue of MATVEC (R131, R200). -/
def execMatvec (src dst : Buf) (s : State) : Host.Outcome State Fault Refusal :=
  .next (s.issue (matvecChecks src dst s))

/-- Block step `t` of MATVEC (R131). -/
def matvecBlock (c : Latched) (t : Nat) (s : State) : State :=
  s.putBlock c t (matVec s c.grows.toNat (s.srcBit c t))

/-! ### ENCODE -/

/-- The issue checks of ENCODE (R135); it latches the built code and GSHAPE (R44). -/
def encodeChecks (src dst : Buf) (s : State) : Except ErrCode Latched :=
  let k := s.K.toNat
  let n := s.N.toNat
  let len := s.len.toNat
  distinctBufs src dst <|
    if s.built = false then .error .notBuilt
    else if s.grows ≠ s.K ∨ s.gcols ≠ s.N then .error .dimensionMismatch
    else if len % k ≠ 0 then .error .lengthMismatch
    else if len > Config.bufBits ∨ len / k * n > Config.bufBits then .error .capacity
    else
      .ok { latch .encode src dst (len / k) k n with
            r := s.BR, m := s.BM, K := s.K, N := s.N, grows := s.grows, gcols := s.gcols }

/-- The issue of ENCODE (R135, R200). -/
def execEncode (src dst : Buf) (s : State) : Host.Outcome State Fault Refusal :=
  .next (s.issue (encodeChecks src dst s))

/-- Block step `t` of ENCODE (R135): MATVEC's block step with a = K and b = N. -/
def encodeBlock (c : Latched) (t : Nat) (s : State) : State :=
  s.putBlock c t (matVec s c.K.toNat (s.srcBit c t))

end Sys2Proof.Machine
end

