-- ==== Sys2Proof/Machine/Interleaver.lean ====
section
/-! DEFINITION. The block interleaver: INTERLEAVE (R190, R191) and DEINTERLEAVE (R192). -/

namespace Sys2Proof.Machine

/-- π_{R,C} (R191): the frame written by rows of length `cols` is read by columns of length `rows`. -/
def frameMap (rows cols q : Nat) : Nat := q % cols * rows + q / cols

/-- The issue checks the two interleaver commands share (R190, R192). -/
def frameChecks (op : Opcode) (src dst : Buf) (s : State) : Except ErrCode Latched :=
  let frame := s.irows.toNat * s.icols.toNat
  let len := s.len.toNat
  distinctBufs src dst <|
    if s.irows.toNat = 0 ∨ s.icols.toNat = 0 then .error .invalidParameter
    else if len % frame ≠ 0 then .error .lengthMismatch
    else if len > Config.bufBits then .error .capacity
    else .ok { latch op src dst (len / frame) frame frame with irows := s.irows, icols := s.icols }

/-- The issue of INTERLEAVE (R190, R200). -/
def execInterleave (src dst : Buf) (s : State) : Host.Outcome State Fault Refusal :=
  .next (s.issue (frameChecks .interleave src dst s))

/-- Block step `t` of INTERLEAVE (R190): output bit q of the frame is the input bit that π_{R,C} sends to q, which is
its image under π_{C,R}, the inverse (R191). -/
def interleaveBlock (c : Latched) (t : Nat) (s : State) : State :=
  s.putBlock c t (fun q => s.srcBit c t (frameMap c.icols.toNat c.irows.toNat q))

/-- The issue of DEINTERLEAVE (R192, R200). -/
def execDeinterleave (src dst : Buf) (s : State) : Host.Outcome State Fault Refusal :=
  .next (s.issue (frameChecks .deinterleave src dst s))

/-- Block step `t` of DEINTERLEAVE (R192): output bit q of the frame is input bit π_{R,C}(q). -/
def deinterleaveBlock (c : Latched) (t : Nat) (s : State) : State :=
  s.putBlock c t (fun q => s.srcBit c t (frameMap c.irows.toNat c.icols.toNat q))

end Sys2Proof.Machine
end

