-- ==== Sys2Proof/Machine/Dispatch.lean ====
section
/-! DEFINITION. The issue of a command, one arm per row of spec/opcode_table.json (R92, R200). The block steps the
issued command then takes are the sequencer's (Sequencer.lean; R201). -/

namespace Sys2Proof.Machine

def exec (i : Instr) (s : State) : Host.Outcome State Fault Refusal :=
  match i with
  | .build src dst => Sys2Proof.Machine.execBuild src dst s
  | .encode src dst => Sys2Proof.Machine.execEncode src dst s
  | .matvec src dst => Sys2Proof.Machine.execMatvec src dst s
  | .transmit src dst => Sys2Proof.Machine.execTransmit src dst s
  | .decode src dst => Sys2Proof.Machine.execDecode src dst s
  | .interleave src dst => Sys2Proof.Machine.execInterleave src dst s
  | .deinterleave src dst => Sys2Proof.Machine.execDeinterleave src dst s
  | .checks src dst => Sys2Proof.Machine.execChecks src dst s

end Sys2Proof.Machine
end

