-- ==== Sys2Proof/Machine/Sequencer.lean ====
section
/-! DEFINITION. The sequencer: the block step of the latched command, and SequencerStep (R201). -/

namespace Sys2Proof.Machine

/-- Block step `t` of the latched command: its family rule's, reading only the latched record (R44, R201). -/
def blockStep (c : Latched) (t : Nat) (s : State) : State :=
  match c.op with
  | .build => buildBlock c s
  | .encode => encodeBlock c t s
  | .matvec => matvecBlock c t s
  | .transmit => transmitBlock c t s
  | .decode => decodeBlock c t s
  | .interleave => interleaveBlock c t s
  | .deinterleave => deinterleaveBlock c t s
  | .checks => checksBlock c t s

/-- BLOCKS and OUTLEN after a block step (R201, R34, R35). -/
def State.countBlock (s : State) (c : Latched) : State :=
  { s with blocks := s.blocks + 1#32, outlen := s.outlen + BitVec.ofNat 32 c.OB }

/-- SequencerStep (R201): an abort request completes the command before its next block step; else block step number
BLOCKS runs, and the last one completes the command. There is no step while BUSY = 0 (log 15). -/
def sequencerStep (s : State) : State :=
  match s.lc with
  | none => s
  | some c =>
    if s.abortPending then s.complete true
    else
      let t := (blockStep c s.blocks.toNat s).countBlock c
      if t.blocks.toNat = c.T then t.complete false else t

end Sys2Proof.Machine
end

