-- ==== Sys2Proof/Machine/HostPort.lean ====
section
/-! DEFINITION. The slave port (R60–R62): host reads and writes of registers and memories, the issue of a command by a
write to CMD (R200), bus errors (R61), the hazard of a memory in use (R69), and one step of any agent (R20). -/

namespace Sys2Proof.Machine

/-- The three memories (R48). -/
inductive MemName where
  | buf (b : Buf)
  | gram
deriving DecidableEq, Repr

/-- What a window address belongs to (R62): a register, a memory, or nothing. -/
inductive Target where
  | reg (r : Reg)
  | mem (n : MemName)
  | unmapped
deriving DecidableEq, Repr

/-- The address map of the host window (R62). -/
def targetOf (a : Nat) : Target :=
  if a < 0x40 then
    match Reg.atOffset a with
    | some r => .reg r
    | none => .unmapped
  else if a < 0x4000 then .unmapped
  else if a < 0x6000 then .mem (.buf .buf0)
  else if a < 0x8000 then .mem (.buf .buf1)
  else if a < 0xA000 then .mem .gram
  else .unmapped

/-- The memories a command reads or writes while it runs (R69, R80; log 11): BUILD uses GRAM, ENCODE and MATVEC use
GRAM and both their buffers, the other stream commands use both their buffers. -/
def Latched.uses (c : Latched) (n : MemName) : Bool :=
  match c.op with
  | .build => n == .gram
  | .encode => n == .gram || n == .buf c.src || n == .buf c.dst
  | .matvec => n == .gram || n == .buf c.src || n == .buf c.dst
  | .transmit => n == .buf c.src || n == .buf c.dst
  | .decode => n == .buf c.src || n == .buf c.dst
  | .interleave => n == .buf c.src || n == .buf c.dst
  | .deinterleave => n == .buf c.src || n == .buf c.dst
  | .checks => n == .buf c.src || n == .buf c.dst

/-- Is a memory in use by the running command (R69, R242)? -/
def State.inUse (s : State) (n : MemName) : Bool :=
  match s.lc with
  | none => false
  | some c => c.uses n

/-- What the port answers to a host access (R60, R61; log 5). -/
def State.respond (s : State) (x : Response) : State := { s with env := { s.env with response := x } }

/-- A word access the port supports: 32 bits wide and aligned (R61). -/
def supported (width : Width) (addr : BitVec 16) : Bool :=
  width == .word && addr.toNat % 4 == 0

/-- OnWriteCMD (R200): a command's issue is `exec`; a word that is no command is dropped while BUSY = 1 and else
completes at issue with IllegalCommand (R93–R95, R202). -/
def onWriteCmd (w : Word) (s : State) : Host.Outcome State Fault Refusal :=
  match decodeCW w with
  | .ok i => exec i s
  | .error _ => .next (s.issue (.error .illegalCommand))

/-- A host read of a memory word (R64, R68), unpredictable while the memory is in use (R69). -/
def hostMemRead (n : MemName) (a : Nat) (s : State) : Host.Outcome State Fault Refusal :=
  if s.inUse n then .fault .unpredictableAccess else .next (s.respond (.data (s.wordAt a)))

/-- A host write of a memory word (R64, R68), unpredictable while the memory is in use (R69). -/
def hostMemWrite (n : MemName) (a : Nat) (v : Word) (s : State) : Host.Outcome State Fault Refusal :=
  if s.inUse n then .fault .unpredictableAccess else .next ((s.putWord a v).respond .written)

/-- A host write to a register: CMD issues a command (R29), every other one stores (R70). -/
def hostRegWrite (r : Reg) (v : Word) (s : State) : Host.Outcome State Fault Refusal :=
  match r with
  | .cmd => onWriteCmd v (s.respond .written)
  | _ => .next ((s.storeReg r v).respond .written)

/-- MemRead(addr, 4) (R60); an unsupported access is a bus error (R61), and an unmapped address reads 0 (R41, R62). -/
def hostRead (width : Width) (addr : BitVec 16) (s : State) : Host.Outcome State Fault Refusal :=
  if supported width addr then
    match targetOf addr.toNat with
    | .reg r => .next (s.respond (.data (s.readReg r)))
    | .mem n => hostMemRead n addr.toNat s
    | .unmapped => .next (s.respond (.data 0#32))
  else .next (s.respond .busError)

/-- MemWrite(addr, 4, v) (R60); an unsupported access is a bus error (R61), and a write to an unmapped address is
ignored (R41, R62). -/
def hostWrite (width : Width) (addr : BitVec 16) (v : Word) (s : State) : Host.Outcome State Fault Refusal :=
  if supported width addr then
    match targetOf addr.toNat with
    | .reg r => hostRegWrite r v s
    | .mem n => hostMemWrite n addr.toNat v s
    | .unmapped => .next (s.respond .written)
  else .next (s.respond .busError)

/-- One step of the agent an input names (R20). -/
def runInput (e : Input) (s : State) : Host.Outcome State Fault Refusal :=
  match e with
  | .read width addr => hostRead width addr s
  | .write width addr v => hostWrite width addr v s
  | .sequencer => .next (sequencerStep s)
  | .reset => .next s.resetBlock

/-- The state with other inputs waiting (R20; log 4). -/
def State.withInputs (s : State) (es : List Input) : State := { s with env := { s.env with inputs := es } }

/-- One step of the machine (R20, R73): the agent the next input names; with no input waiting, the sequencer, if it
has a step (log 4). -/
def agentStep (s : State) : Host.Outcome State Fault Refusal :=
  match s.env.inputs with
  | [] => .next (sequencerStep s)
  | e :: rest => runInput e (s.withInputs rest)

/-- The address of the CMD register as the port sees it (R21, R29). -/
def cmdAddr : BitVec 16 := 0x0020#16

/-- The state in which the host's very next step writes a word to CMD (R29, R90; log 10). -/
def State.withCommandWord (s : State) (w : Word) : State :=
  s.withInputs (.write .word cmdAddr w :: s.env.inputs)

end Sys2Proof.Machine
end

