-- ==== Sys2Proof/Machine/Step.lean ====
section
/-! DEFINITION. The step of the machine and the placing of a command for it to run (log 10). -/

namespace Sys2Proof.Machine

/-- One step of one agent (R20, R73). -/
def step (s : State) : Host.Outcome State Fault Refusal := agentStep s

/-- The state whose very next step is the host's write of this command word to CMD (R29, R90; log 10). -/
def State.withFetchWord (s : State) (nbits w : Nat) : State :=
  s.withCommandWord (tableWord nbits w)

end Sys2Proof.Machine
end

