-- ==== Sys2Proof/Safety.lean ====
section
/-! DEFINITION. The terms claims are stated in: runs of the sequencer and of the machine, what two states share, the
geometry and the error tables of the issue (R97, R204–R206), and the invariant of the machine. -/

namespace Sys2Proof.Machine

/-! ### Runs -/

/-- The state after `n` sequencer steps (R201). -/
def sequencerRun : Nat → State → State
  | 0, s => s
  | n + 1, s => sequencerRun n (sequencerStep s)

/-- The n-th value after the next one that Draw16() will take, with nothing else taking draws (R151; log 3). -/
def State.drawAt (s : State) (n : Nat) : BitVec 16 :=
  match s.env.port[n]? with
  | some u => u
  | none => Config.freeDraw (s.env.drawn + n)

/-- The next step of the machine is a block step of the command `op`: it is the sequencer's turn (R20; log 4), that
command is running, and no abort request ends it first (R201, R203). -/
def State.atBlockStepOf (s : State) (op : Opcode) : Prop :=
  (s.env.inputs = [] ∨ ∃ rest, s.env.inputs = .sequencer :: rest) ∧ (∃ c, s.lc = some c ∧ c.op = op) ∧
    s.abortPending = false

/-! ### The legal words -/

/-- The list of R99, in its order: every legal command word and what it stands for. -/
def listedWords : List (Word × Instr) :=
  [(0x00000001#32, .build .buf0 .buf0), (0x00000011#32, .build .buf1 .buf0),
   (0x00000021#32, .build .buf0 .buf1), (0x00000031#32, .build .buf1 .buf1),
   (0x00000022#32, .encode .buf0 .buf1), (0x00000012#32, .encode .buf1 .buf0),
   (0x00000023#32, .matvec .buf0 .buf1), (0x00000013#32, .matvec .buf1 .buf0),
   (0x00000024#32, .transmit .buf0 .buf1), (0x00000014#32, .transmit .buf1 .buf0),
   (0x00000025#32, .decode .buf0 .buf1), (0x00000015#32, .decode .buf1 .buf0),
   (0x00000026#32, .interleave .buf0 .buf1), (0x00000016#32, .interleave .buf1 .buf0),
   (0x00000027#32, .deinterleave .buf0 .buf1), (0x00000017#32, .deinterleave .buf1 .buf0),
   (0x00000028#32, .checks .buf0 .buf1), (0x00000018#32, .checks .buf1 .buf0)]

/-- The words R93, R94 and R95 make illegal: a bit of [31:6] set, a reserved OP, or a stream command with SRC = DST. -/
def illegalWord (w : Word) : Prop :=
  w.toNat / 64 ≠ 0 ∨ w.toNat % 16 = 0 ∨ 9 ≤ w.toNat % 16 ∨
    (2 ≤ w.toNat % 16 ∧ w.toNat % 16 ≤ 8 ∧ w.toNat / 16 % 2 = w.toNat / 32 % 2)

/-! ### What two states share -/

/-- The registers only the host writes: CFG, PE, ILV, LEN and IRQEN (R22, R26–R28, R39). -/
structure SameHostRegs (s t : State) : Prop where
  cfgM : t.cfgM = s.cfgM
  cfgR : t.cfgR = s.cfgR
  pe : t.pe = s.pe
  irows : t.irows = s.irows
  icols : t.icols = s.icols
  len : t.len = s.len
  ie : t.ie = s.ie

/-- GSHAPE, which the host and BUILD write (R25). -/
structure SameShape (s t : State) : Prop where
  grows : t.grows = s.grows
  gcols : t.gcols = s.gcols

/-- The built code (BUILT, BR, BM, K, N), which only BUILD writes (R23, R24, R47). -/
structure SameCode (s t : State) : Prop where
  built : t.built = s.built
  BR : t.BR = s.BR
  BM : t.BM = s.BM
  K : t.K = s.K
  N : t.N = s.N

/-- STATUS.DONE, DROPPED, ABORTED and ERR (R30). -/
structure SameFlags (s t : State) : Prop where
  done : t.done = s.done
  dropped : t.dropped = s.dropped
  aborted : t.aborted = s.aborted
  err : t.err = s.err

/-- OUTLEN, BLOCKS and FLIPS (R34, R35, R38). -/
structure SameCounts (s t : State) : Prop where
  outlen : t.outlen = s.outlen
  blocks : t.blocks = s.blocks
  flips : t.flips = s.flips

/-- LC, which BUSY shows, and the abort request (R44, R45). -/
structure SameCommand (s t : State) : Prop where
  lc : t.lc = s.lc
  abortPending : t.abortPending = s.abortPending

/-- Every byte of BUF0, BUF1 and GRAM reads alike (R62). -/
def SameMemory (s t : State) : Prop := ∀ a, memLo ≤ a → a < memHi → t.byteAt a = s.byteAt a

/-- Every register and every byte of the block is alike; the model's surroundings may differ. -/
structure SameBlock (s t : State) : Prop where
  hostRegs : SameHostRegs s t
  shape : SameShape s t
  code : SameCode s t
  flags : SameFlags s t
  counts : SameCounts s t
  command : SameCommand s t
  memory : SameMemory s t

/-- Is the window address `a` one of the bytes that hold the stream bits [0, len) of buffer `b` (R63)? -/
def holdsStream (b : Buf) (len a : Nat) : Prop := bufBase b ≤ a ∧ a < bufBase b + (len + 7) / 8

/-- Nothing of the memories changes between `s` and `t` but the stream bits [0, len) of buffer `b` (R71). -/
structure OnlyStream (b : Buf) (len : Nat) (s t : State) : Prop where
  otherBytes : ∀ a, memLo ≤ a → a < memHi → ¬ holdsStream b len a → t.byteAt a = s.byteAt a
  otherBits : ∀ i, len ≤ i → i < Config.bufBits → t.bufBit b i = s.bufBit b i

/-- A stream command of `T` blocks of `OB` output bits has run to its end: the machine is idle, DONE is set, ERR and
ABORTED are clear, and BLOCKS and OUTLEN count the whole output (R203, R34, R35). -/
structure Completed (T OB : Nat) (t : State) : Prop where
  idle : t.busy = false
  done : t.done = true
  err : t.err = .none
  aborted : t.aborted = false
  abortPending : t.abortPending = false
  blocks : t.blocks.toNat = T
  outlen : t.outlen.toNat = T * OB

/-- What a stream command leaves besides its output, its flags and its counts: the registers the host writes, the
shape, the built code, DROPPED, the resets taken, the inputs and the last response (R33, R38). -/
structure StreamFrame (s t : State) : Prop where
  hostRegs : SameHostRegs s t
  shape : SameShape s t
  code : SameCode s t
  dropped : t.dropped = s.dropped
  epoch : t.env.epoch = s.env.epoch
  inputs : t.env.inputs = s.env.inputs
  response : t.env.response = s.env.response

/-- No random draw is taken between `s` and `t`, and FLIPS is alike (R38, R151). -/
structure NoDraws (s t : State) : Prop where
  port : t.env.port = s.env.port
  drawn : t.env.drawn = s.env.drawn
  flips : t.flips = s.flips

/-- A host read of the aligned word at `addr` answers `w` and changes nothing else (R60, R70; log 5). -/
def readsAs (s : State) (addr : BitVec 16) (w : Word) : Prop :=
  hostRead .word addr s = .next { s with env := { s.env with response := .data w } }

/-! ### The issue tables -/

/-- Input bits per block, IB (R97). -/
def blockIn (i : Instr) (s : State) : Nat :=
  match i with
  | .build _ _ => 0
  | .encode _ _ => s.K.toNat
  | .matvec _ _ => s.grows.toNat
  | .transmit _ _ => 1
  | .decode _ _ => s.N.toNat
  | .interleave _ _ => s.irows.toNat * s.icols.toNat
  | .deinterleave _ _ => s.irows.toNat * s.icols.toNat
  | .checks _ _ => s.N.toNat

/-- Output bits per block, OB (R97). -/
def blockOut (i : Instr) (s : State) : Nat :=
  match i with
  | .build _ _ => 0
  | .encode _ _ => s.N.toNat
  | .matvec _ _ => s.gcols.toNat
  | .transmit _ _ => 1
  | .decode _ _ => s.K.toNat
  | .interleave _ _ => s.irows.toNat * s.icols.toNat
  | .deinterleave _ _ => s.irows.toNat * s.icols.toNat
  | .checks _ _ => s.BM.toNat.choose s.BR.toNat * 2 ^ (s.BM.toNat - s.BR.toNat)

/-- The number of blocks, T (R97). -/
def blockCount (i : Instr) (s : State) : Nat :=
  match i with
  | .build _ _ => 1
  | .encode _ _ => s.len.toNat / blockIn i s
  | .matvec _ _ => s.len.toNat / blockIn i s
  | .transmit _ _ => s.len.toNat / blockIn i s
  | .decode _ _ => s.len.toNat / blockIn i s
  | .interleave _ _ => s.len.toNat / blockIn i s
  | .deinterleave _ _ => s.len.toNat / blockIn i s
  | .checks _ _ => s.len.toNat / blockIn i s

/-- The commands that need a built code (R204, code 4). -/
def needsBuilt : Instr → Bool
  | .encode _ _ => true
  | .decode _ _ => true
  | .checks _ _ => true
  | .build _ _ => false
  | .matvec _ _ => false
  | .transmit _ _ => false
  | .interleave _ _ => false
  | .deinterleave _ _ => false

/-- The causes of InvalidParameter (R204, code 1). -/
def badParameter (i : Instr) (s : State) : Bool :=
  match i with
  | .build _ _ => decide (8 < s.cfgM.toNat) || decide (s.cfgM.toNat < s.cfgR.toNat)
  | .transmit _ _ => decide (65536 < s.pe.toNat)
  | .interleave _ _ => s.irows == 0#16 || s.icols == 0#16
  | .deinterleave _ _ => s.irows == 0#16 || s.icols == 0#16
  | .encode _ _ => false
  | .matvec _ _ => false
  | .decode _ _ => false
  | .checks _ _ => false

/-- The causes of DimensionMismatch (R204, code 3). -/
def badShape (i : Instr) (s : State) : Bool :=
  match i with
  | .encode _ _ => s.grows != s.K || s.gcols != s.N
  | .matvec _ _ =>
    !(decide (1 ≤ s.grows.toNat) && decide (s.grows.toNat ≤ 256) && decide (1 ≤ s.gcols.toNat) &&
      decide (s.gcols.toNat ≤ 256))
  | .build _ _ => false
  | .transmit _ _ => false
  | .decode _ _ => false
  | .interleave _ _ => false
  | .deinterleave _ _ => false
  | .checks _ _ => false

/-- The commands that read a source stream: all but BUILD (R94). -/
def isStream : Instr → Bool
  | .build _ _ => false
  | .encode _ _ => true
  | .matvec _ _ => true
  | .transmit _ _ => true
  | .decode _ _ => true
  | .interleave _ _ => true
  | .deinterleave _ _ => true
  | .checks _ _ => true

/-- The cause of LengthMismatch (R204, code 2). -/
def badLength (i : Instr) (s : State) : Bool := isStream i && s.len.toNat % blockIn i s != 0

/-- The cause of Capacity (R205). -/
def badCapacity (i : Instr) (s : State) : Bool :=
  isStream i && (decide (65536 < s.len.toNat) || decide (65536 < s.len.toNat / blockIn i s * blockOut i s))

/-- The first error in the order of R206, if there is one. -/
def firstError (i : Instr) (s : State) : Option ErrCode :=
  if !i.wf then some .illegalCommand
  else if needsBuilt i && !s.built then some .notBuilt
  else if badParameter i s then some .invalidParameter
  else if badShape i s then some .dimensionMismatch
  else if badLength i s then some .lengthMismatch
  else if badCapacity i s then some .capacity
  else none

/-- The opcode of a command (R92). -/
def opcodeOf : Instr → Opcode
  | .build _ _ => .build
  | .encode _ _ => .encode
  | .matvec _ _ => .matvec
  | .transmit _ _ => .transmit
  | .decode _ _ => .decode
  | .interleave _ _ => .interleave
  | .deinterleave _ _ => .deinterleave
  | .checks _ _ => .checks

/-! ### The invariant -/

/-- What holds of a latched command by its family's checks and geometry (R97, R110, R131, R135, R150, R165, R175,
R190, R192). -/
def Latched.Fits (c : Latched) : Prop :=
  match c.op with
  | .build => c.T = 1 ∧ c.IB = 0 ∧ c.OB = 0 ∧ c.r.toNat ≤ c.m.toNat ∧ c.m.toNat ≤ 8
  | .encode => c.IB = c.K.toNat ∧ c.OB = c.N.toNat
  | .matvec => c.IB = c.grows.toNat ∧ c.OB = c.gcols.toNat ∧ c.IB ≤ 256 ∧ 1 ≤ c.OB ∧ c.OB ≤ 256
  | .transmit => c.IB = 1 ∧ c.OB = 1 ∧ c.pe.toNat ≤ 65536
  | .decode =>
    c.r.toNat ≤ c.m.toNat ∧ c.m.toNat ≤ 8 ∧ c.IB = codeLen c.m.toNat ∧ c.OB = codeDim c.r.toNat c.m.toNat
  | .interleave => c.IB = c.irows.toNat * c.icols.toNat ∧ c.OB = c.IB
  | .deinterleave => c.IB = c.irows.toNat * c.icols.toNat ∧ c.OB = c.IB
  | .checks =>
    c.r.toNat ≤ c.m.toNat ∧ c.m.toNat ≤ 8 ∧ c.IB = codeLen c.m.toNat ∧ c.OB = syndromeLen c.r.toNat c.m.toNat

/-- A running command is at a block below its last, inside its buffers, with its counts in step (R43, R71, R201,
R205), and FLIPS counts no more than the bits a TRANSMIT has sent (R152). -/
structure State.Running (s : State) (c : Latched) : Prop where
  fits : c.Fits
  next : s.blocks.toNat < c.T
  count : c.T ≤ 65536
  input : c.T * c.IB ≤ 65536
  output : c.T * c.OB ≤ 65536
  outlen : s.outlen.toNat = s.blocks.toNat * c.OB
  buffers : c.op ≠ .build → c.src ≠ c.dst ∧ 1 ≤ c.IB
  flips : c.op = .transmit → s.flips.toNat ≤ s.blocks.toNat

/-- The invariant of the machine: memory in canonical form (log 1), a built code that is a code (R23, R5) or all zero
(R23, R24), a running command in its bounds with DONE, ABORTED and ERR clear (R30, R200), an abort request only while
a command runs (R37, R45), ABORTED only without an error (R202, R203), and FLIPS within a buffer (R152). -/
structure State.Inv (s : State) : Prop where
  memory : s.mem.wf
  notBuilt : s.built = false → s.K = 0#16 ∧ s.N = 0#16 ∧ s.BR = 0#4 ∧ s.BM = 0#4
  isBuilt : s.built = true → s.BR.toNat ≤ s.BM.toNat ∧ s.BM.toNat ≤ 8 ∧
    s.K.toNat = codeDim s.BR.toNat s.BM.toNat ∧ s.N.toNat = codeLen s.BM.toNat
  running : ∀ c, s.lc = some c → s.Running c ∧ s.done = false ∧ s.aborted = false ∧ s.err = .none
  abort : s.abortPending = true → s.busy = true
  aborted : s.aborted = true → s.err = .none
  flips : s.flips.toNat ≤ 65536

end Sys2Proof.Machine
end

