-- ==== Sys2Proof/Certificates/Slice0/Obligations.lean ====
section
/-! DEFINITION. The statements for the provers, each from a rule of spec/ named in OBLIGATIONS.json. -/

open Sys2Proof Sys2Proof.Machine

/-! ### The command word -/

/-- Words of every family, written out from R90 and R92, decode to what they stand for. -/
def Obligations.ListedCommandWordsDecode : Prop :=
  decodeCW 0x00000001#32 = .ok (.build .buf0 .buf0) ∧
  decodeCW 0x00000031#32 = .ok (.build .buf1 .buf1) ∧
  decodeCW 0x00000022#32 = .ok (.encode .buf0 .buf1) ∧
  decodeCW 0x00000013#32 = .ok (.matvec .buf1 .buf0) ∧
  decodeCW 0x00000024#32 = .ok (.transmit .buf0 .buf1) ∧
  decodeCW 0x00000015#32 = .ok (.decode .buf1 .buf0) ∧
  decodeCW 0x00000026#32 = .ok (.interleave .buf0 .buf1) ∧
  decodeCW 0x00000017#32 = .ok (.deinterleave .buf1 .buf0) ∧
  decodeCW 0x00000028#32 = .ok (.checks .buf0 .buf1)

/-- R99: the listed words decode to what the list says, they are 18, and every other word is rejected. -/
def Obligations.OnlyListedWordsAreLegal : Prop :=
  (∀ p ∈ listedWords, decodeCW p.1 = .ok p.2) ∧ listedWords.length = 18 ∧
  ∀ w : Word, w ∉ listedWords.map (·.1) → ∃ e, decodeCW w = .error e

/-- Decode and encode agree over all words and all commands, and on the bytes of a word (R66, R90, R92, R98). -/
def Obligations.DecodeAndEncodeAgree : Prop :=
  (∀ (w : Word) (i : Instr), decodeCW w = .ok i ↔ i.wf = true ∧ encode i = w) ∧
  ∀ (i : Instr) (rest : List Byte), i.wf = true → decodeBytes (encodeBytes i ++ rest) = .ok (i, rest)

/-- R93, R95: while the machine is idle, a word with a reserved OP or a reserved bit set (and one with SRC = DST,
R94) completes at issue with IllegalCommand and changes nothing else. -/
def Obligations.IllegalWordsCompleteAtIssue : Prop :=
  ∀ (s : State) (w : Word), s.busy = false → illegalWord w →
    hostWrite .word cmdAddr w s =
      .next { s with
        aborted := false, outlen := 0#32, blocks := 0#32, err := .illegalCommand, done := true
        env := { s.env with response := .written } }

/-- The issue of a stream command with SRC = DST completes with IllegalCommand. No word decodes to such a command, so
this clause is the model's choice (log 8), by the effect R94 gives the word, which IllegalWordsCompleteAtIssue states.
A command is not well-formed exactly when it is such a one, and BUILD ignores SRC and DST (R94). -/
def Obligations.StreamCommandsNeedTwoBuffers : Prop :=
  (∀ (s : State) (i : Instr), s.busy = false → i.wf = false →
    exec i s =
      .next { s with aborted := false, outlen := 0#32, blocks := 0#32, err := .illegalCommand, done := true }) ∧
  (∀ i : Instr, i.wf = false ↔ isStream i = true ∧ (bufFields i).1 = (bufFields i).2) ∧
  ∀ (s : State) (a b : Buf), exec (.build a b) s = exec (.build .buf0 .buf0) s

/-! ### The step -/

/-- A step whose next input writes a command word to CMD is that command's `exec`, the input taken and the access
answered; placing a table word makes the next step so (R29, R90, R200). -/
def Obligations.StepRunsTheDecodedCommand : Prop :=
  (∀ (s : State) (w : Word) (i : Instr) (rest : List Input),
    s.env.inputs = .write .word cmdAddr w :: rest → decodeCW w = .ok i →
    step s = exec i { s with env := { s.env with inputs := rest, response := .written } }) ∧
  ∀ (s : State) (nbits w : Nat) (i : Instr), decodeTableWord nbits w = some i →
    step (s.withFetchWord nbits w) = exec i { s with env := { s.env with response := .written } }

/-- The agents step in the order of the inputs, one step each, and with none waiting the sequencer steps, which has
no step while BUSY = 0 (R20, R73, R201, R217; log 4, log 15). -/
def Obligations.StepFollowsItsInputs : Prop :=
  (∀ s : State, s.env.inputs = [] → step s = .next (sequencerStep s)) ∧
  (∀ s : State, s.busy = false → sequencerStep s = s) ∧
  ∀ (s : State) (e : Input) (rest : List Input), s.env.inputs = e :: rest →
    step s =
      (let t := { s with env := { s.env with inputs := rest } }
       match e with
       | .read width addr => hostRead width addr t
       | .write width addr v => hostWrite width addr v t
       | .sequencer => .next (sequencerStep t)
       | .reset => .next t.resetBlock)

/-! ### The command life cycle -/

/-- R32, R240: a CMD write while BUSY = 1, whatever its word, only sets DROPPED, and nothing else ever sets DROPPED. -/
def Obligations.CommandWhileBusyIsDropped : Prop :=
  (∀ (s : State) (w : Word), s.busy = true →
    hostWrite .word cmdAddr w s =
      .next { s with dropped := true, env := { s.env with response := .written } }) ∧
  ∀ s t : State, step s = .next t → s.dropped = false → t.dropped = true →
    s.busy = true ∧ ∃ w rest, s.env.inputs = .write .word cmdAddr w :: rest

/-- R205, R206: an issue whose checks fail reports the first error in the order IllegalCommand, NotBuilt,
InvalidParameter, DimensionMismatch, LengthMismatch, Capacity, and changes nothing but ERR, DONE and what every issue
clears (R202, R207). -/
def Obligations.FirstErrorIsReported : Prop :=
  ∀ (s : State) (i : Instr) (e : ErrCode), s.Inv → s.busy = false → firstError i s = some e →
    exec i s =
      .next { s with aborted := false, outlen := 0#32, blocks := 0#32, err := e, done := true }

/-- Every command without an error is accepted: it latches its opcode, buffers and geometry (R97), runs if it has a
block step and completes at once if it has none, and changes nothing else but the flags and counts of R200. -/
def Obligations.AcceptedIssueLatchesTheCommand : Prop :=
  ∀ (s : State) (i : Instr), s.Inv → s.busy = false → firstError i s = none →
    ∃ t, exec i s = .next t ∧
      t.err = .none ∧ t.aborted = false ∧ t.abortPending = false ∧ t.dropped = s.dropped ∧
      t.outlen = 0#32 ∧ t.blocks = 0#32 ∧
      t.flips = (if opcodeOf i = .transmit then 0#32 else s.flips) ∧
      (blockCount i s = 0 → t.busy = false ∧ t.done = true) ∧
      (blockCount i s ≠ 0 → t.done = false ∧ ∃ c, t.lc = some c ∧ c.op = opcodeOf i ∧
        (isStream i = true → c.src = (bufFields i).1 ∧ c.dst = (bufFields i).2) ∧
        c.T = blockCount i s ∧ c.IB = blockIn i s ∧ c.OB = blockOut i s) ∧
      SameHostRegs s t ∧ SameShape s t ∧ SameCode s t ∧ SameMemory s t ∧ t.env = s.env

/-- An abort request ends the command before its next block step: BUSY, the request and LC go, DONE and ABORTED come,
and nothing else changes, so BLOCKS and OUTLEN count the whole blocks done (R201, R203). -/
def Obligations.AbortEndsTheCommand : Prop :=
  ∀ s : State, s.busy = true → s.abortPending = true →
    sequencerStep s = { s with lc := none, done := true, aborted := true, abortPending := false }

/-- A block step without an abort request adds 1 to BLOCKS and OB to OUTLEN, ends the command exactly when BLOCKS
reaches T, and writes no flag but that completion's (R33, R201, R203). -/
def Obligations.SequencerStepCountsBlocks : Prop :=
  ∀ (s : State) (c : Latched), s.Inv → s.lc = some c → s.abortPending = false →
    let t := sequencerStep s
    t.blocks.toNat = s.blocks.toNat + 1 ∧ t.outlen.toNat = s.outlen.toNat + c.OB ∧
    t.err = .none ∧ t.dropped = s.dropped ∧ t.aborted = false ∧ t.abortPending = false ∧
    (s.blocks.toNat + 1 = c.T → t.busy = false ∧ t.done = true) ∧
    (s.blocks.toNat + 1 ≠ c.T → t.lc = some c ∧ t.done = false) ∧
    SameHostRegs s t

/-- A command of T block steps is idle after the T - BLOCKS sequencer steps it still has, never later, so within 65537
steps of its issue (R201, R250; rests on log 3 and log 4, the model's choices, for the sequencer and the port to go
on). -/
def Obligations.CommandEndsWithinItsBlocks : Prop :=
  (∀ (s : State) (c : Latched) (n : Nat), s.Inv → s.lc = some c → c.T - s.blocks.toNat ≤ n →
    (sequencerRun n s).busy = false ∧ (sequencerRun n s).done = true) ∧
  ∀ (s : State) (n : Nat), s.Inv → 65536 ≤ n → (sequencerRun n s).busy = false

/-! ### Each command, from its issue to its completion -/

/-- BUILD with R ≤ M ≤ 8 is accepted and its one block step leaves G(R, M) in GRAM, the built code and its shape, and
nothing else changed (R110, R111, R114). -/
def Obligations.BuildRunsToCompletion : Prop :=
  ∀ (s : State) (src dst : Buf), s.busy = false → s.cfgM.toNat ≤ 8 → s.cfgR.toNat ≤ s.cfgM.toNat →
    ∃ t, exec (.build src dst) s = .next t ∧ t.busy = true ∧
      let r := s.cfgR.toNat
      let m := s.cfgM.toNat
      let u := sequencerStep t
      Completed 1 0 u ∧ u.built = true ∧ u.BR = s.cfgR ∧ u.BM = s.cfgM ∧
      u.K.toNat = codeDim r m ∧ u.N.toNat = 2 ^ m ∧ u.grows = u.K ∧ u.gcols = u.N ∧
      (∀ i < 256, ∀ j < 256,
        u.gBit i j = (decide (i < codeDim r m) && decide (j < 2 ^ m) && genEntry r m i j)) ∧
      (∀ a, memLo ≤ a → a < gramBase → u.byteAt a = s.byteAt a) ∧
      SameHostRegs s u ∧ u.dropped = s.dropped ∧ u.flips = s.flips ∧ u.env = s.env

/-- ENCODE of whole blocks that fit is accepted and writes the codeword u·G of every block with the matrix in GRAM,
and nothing else (R135, R67, R71). -/
def Obligations.EncodeRunsToCompletion : Prop :=
  ∀ (s : State) (src dst : Buf), s.Inv → s.busy = false → src ≠ dst → s.built = true → s.grows = s.K →
    s.gcols = s.N → s.len.toNat % s.K.toNat = 0 → s.len.toNat ≤ 65536 → s.len.toNat / s.K.toNat * s.N.toNat ≤ 65536 →
    ∃ t, exec (.encode src dst) s = .next t ∧
      let k := s.K.toNat
      let n := s.N.toNat
      let T := s.len.toNat / k
      let u := sequencerRun T t
      Completed T n u ∧
      (∀ b < T, ∀ j < n,
        u.bufBit dst (b * n + j) = xorSum (fun i => s.bufBit src (b * k + i) && s.gBit i j) k) ∧
      OnlyStream dst (T * n) s u ∧ StreamFrame s u ∧ NoDraws s u

/-- MATVEC of whole blocks that fit, with a shape in 1..256, is accepted and writes the product of every block with
the matrix in GRAM, and nothing else (R130, R131, R67, R71). -/
def Obligations.MatvecRunsToCompletion : Prop :=
  ∀ (s : State) (src dst : Buf), s.busy = false → src ≠ dst →
    1 ≤ s.grows.toNat → s.grows.toNat ≤ 256 → 1 ≤ s.gcols.toNat → s.gcols.toNat ≤ 256 →
    s.len.toNat % s.grows.toNat = 0 → s.len.toNat ≤ 65536 →
    s.len.toNat / s.grows.toNat * s.gcols.toNat ≤ 65536 →
    ∃ t, exec (.matvec src dst) s = .next t ∧
      let a := s.grows.toNat
      let b := s.gcols.toNat
      let T := s.len.toNat / a
      let u := sequencerRun T t
      Completed T b u ∧
      (∀ q < T, ∀ j < b,
        u.bufBit dst (q * b + j) = xorSum (fun i => s.bufBit src (q * a + i) && s.gBit i j) a) ∧
      OnlyStream dst (T * b) s u ∧ StreamFrame s u ∧ NoDraws s u

/-- TRANSMIT with PE ≤ 65536 is accepted, flips bit t exactly when the t-th draw is below PE, counts the flips, takes
one draw per bit, and changes nothing else (R150, R151, R152). It holds for every sequence of draws. -/
def Obligations.TransmitRunsToCompletion : Prop :=
  ∀ (s : State) (src dst : Buf), s.busy = false → src ≠ dst → s.pe.toNat ≤ 65536 → s.len.toNat ≤ 65536 →
    ∃ t, exec (.transmit src dst) s = .next t ∧
      let T := s.len.toNat
      let u := sequencerRun T t
      let flip := fun b => decide ((s.drawAt b).toNat < s.pe.toNat)
      Completed T 1 u ∧
      (∀ b < T, u.bufBit dst b = xor (s.bufBit src b) (flip b)) ∧
      u.flips.toNat = (List.range T).countP flip ∧
      u.env.drawn = s.env.drawn + T ∧ u.env.port = s.env.port.drop T ∧
      OnlyStream dst T s u ∧ StreamFrame s u

/-- DECODE of whole received blocks with a built code is accepted and writes ReedDecode of every block for (BR, BM),
and nothing else; GRAM is not read (R165, R166, R67, R71). -/
def Obligations.DecodeRunsToCompletion : Prop :=
  ∀ (s : State) (src dst : Buf), s.Inv → s.busy = false → src ≠ dst → s.built = true →
    s.len.toNat % s.N.toNat = 0 → s.len.toNat ≤ 65536 →
    ∃ t, exec (.decode src dst) s = .next t ∧
      let k := s.K.toNat
      let n := s.N.toNat
      let T := s.len.toNat / n
      let u := sequencerRun T t
      Completed T k u ∧
      (∀ b < T, ∀ i < k,
        (reedDecode ((List.range n).map (fun j => s.bufBit src (b * n + j))) s.BR.toNat s.BM.toNat)[i]? =
          some (u.bufBit dst (b * k + i))) ∧
      OnlyStream dst (T * k) s u ∧ StreamFrame s u ∧ NoDraws s u

/-- INTERLEAVE of whole frames is accepted and sends the bit at row r, column c of every frame to position c·R + r,
and changes nothing else (R190, R191). -/
def Obligations.InterleaveRunsToCompletion : Prop :=
  ∀ (s : State) (src dst : Buf), s.busy = false → src ≠ dst → s.irows ≠ 0#16 → s.icols ≠ 0#16 →
    s.len.toNat % (s.irows.toNat * s.icols.toNat) = 0 → s.len.toNat ≤ 65536 →
    ∃ t, exec (.interleave src dst) s = .next t ∧
      let R := s.irows.toNat
      let C := s.icols.toNat
      let T := s.len.toNat / (R * C)
      let u := sequencerRun T t
      Completed T (R * C) u ∧
      (∀ b < T, ∀ r < R, ∀ c < C,
        u.bufBit dst (b * (R * C) + c * R + r) = s.bufBit src (b * (R * C) + r * C + c)) ∧
      OnlyStream dst s.len.toNat s u ∧ StreamFrame s u ∧ NoDraws s u

/-- DEINTERLEAVE of whole frames is accepted and sends the bit at position c·R + r of every frame to row r, column c,
and changes nothing else (R192). -/
def Obligations.DeinterleaveRunsToCompletion : Prop :=
  ∀ (s : State) (src dst : Buf), s.busy = false → src ≠ dst → s.irows ≠ 0#16 → s.icols ≠ 0#16 →
    s.len.toNat % (s.irows.toNat * s.icols.toNat) = 0 → s.len.toNat ≤ 65536 →
    ∃ t, exec (.deinterleave src dst) s = .next t ∧
      let R := s.irows.toNat
      let C := s.icols.toNat
      let T := s.len.toNat / (R * C)
      let u := sequencerRun T t
      Completed T (R * C) u ∧
      (∀ b < T, ∀ r < R, ∀ c < C,
        u.bufBit dst (b * (R * C) + r * C + c) = s.bufBit src (b * (R * C) + c * R + r)) ∧
      OnlyStream dst s.len.toNat s u ∧ StreamFrame s u ∧ NoDraws s u

/-- CHECKS of whole received blocks that fit, with a built code, is accepted and writes σ(S, b, y) of every block y,
monomials S of degree BR in row order and b ascending, and nothing else (R175, R115, R116). -/
def Obligations.ChecksRunsToCompletion : Prop :=
  ∀ (s : State) (src dst : Buf), s.Inv → s.busy = false → src ≠ dst → s.built = true →
    s.len.toNat % s.N.toNat = 0 → s.len.toNat ≤ 65536 →
    s.len.toNat / s.N.toNat * syndromeLen s.BR.toNat s.BM.toNat ≤ 65536 →
    ∃ t, exec (.checks src dst) s = .next t ∧
      let r := s.BR.toNat
      let m := s.BM.toNat
      let n := s.N.toNat
      let W := m.choose r * 2 ^ (m - r)
      let T := s.len.toNat / n
      let u := sequencerRun T t
      Completed T W u ∧
      (∀ q < T, ∀ p S, (monosOfDegree m r)[p]? = some S → ∀ b < 2 ^ (m - r),
        u.bufBit dst (q * W + p * 2 ^ (m - r) + b) = checkSum m S b (fun j => s.bufBit src (q * n + j))) ∧
      OnlyStream dst (T * W) s u ∧ StreamFrame s u ∧ NoDraws s u

/-- One sequencer step of a stream command writes only its output block, the destination bits [t·OB, (t+1)·OB) for
t = BLOCKS: every other bit of the destination and every byte of the other buffer and of GRAM stays (R71, R80). BUILD's
step writes only GRAM. -/
def Obligations.BlockStepWritesOnlyItsBlock : Prop :=
  ∀ (s : State) (c : Latched), s.Inv → s.lc = some c →
    let t := sequencerStep s
    (c.op = .build → ∀ a, memLo ≤ a → a < gramBase → t.byteAt a = s.byteAt a) ∧
    (c.op ≠ .build →
      (∀ i < 65536, i < s.blocks.toNat * c.OB ∨ (s.blocks.toNat + 1) * c.OB ≤ i →
        t.bufBit c.dst i = s.bufBit c.dst i) ∧
      (∀ i < 65536, t.bufBit c.src i = s.bufBit c.src i) ∧
      (∀ a, gramBase ≤ a → a < memHi → t.byteAt a = s.byteAt a))

/-! ### The codec -/

/-- R132: the multiplier is additive, maps zero to zero and a unit vector to a row of GRAM. -/
def Obligations.MultiplierIsLinear : Prop :=
  ∀ (s : State) (a j : Nat),
    (∀ x y : Nat → Bool,
      matVec s a (fun i => xor (x i) (y i)) j = xor (matVec s a x j) (matVec s a y j)) ∧
    matVec s a (fun _ => false) j = false ∧
    ∀ e < a, matVec s a (fun i => decide (i = e)) j = s.gBit e j

/-- Coordinate x_i of position j is bit i - 1 of j (R112). The generator rows are the monomials of degree at most r,
Σ C(m, i) of them, by degree, then lexicographically, with the rule's two examples (R113). The entry of row t at j is
the AND of the bits j[i - 1] over the i of monomial t (R114). -/
def Obligations.GeneratorRowsInOrder : Prop :=
  (∀ r m : Nat, r ≤ m →
    (monos r m).length = ((List.range (r + 1)).map (fun i => m.choose i)).sum ∧
    (∀ S : List Nat, S ∈ monos r m ↔
      S.Pairwise (· < ·) ∧ (∀ i ∈ S, 1 ≤ i ∧ i ≤ m) ∧ S.length ≤ r) ∧
    (monos r m).Pairwise (fun S S' =>
      S.length < S'.length ∨ (S.length = S'.length ∧ List.Lex (· < ·) S S')) ∧
    ∀ t S, (monos r m)[t]? = some S → ∀ j,
      genEntry r m t j = monoAt S j ∧ (monoAt S j = true ↔ ∀ i ∈ S, j.testBit (i - 1) = true)) ∧
  (∀ i j : Nat, coord i j = j.testBit (i - 1)) ∧
  monos 1 3 = [[], [1], [2], [3]] ∧
  monos 2 4 = [[], [1], [2], [3], [4], [1, 2], [1, 3], [1, 4], [2, 3], [2, 4], [3, 4]]

/-- R23: the built code's dimensions are 1 ≤ K ≤ N ≤ 256, and both are 0 while nothing is built. -/
def Obligations.BuiltDimensionsAreBounded : Prop :=
  ∀ s : State, s.Inv →
    (s.built = true → 1 ≤ s.K.toNat ∧ s.K.toNat ≤ s.N.toNat ∧ s.N.toNat ≤ 256) ∧
    (s.built = false → s.readReg .code = 0#32)

/-- R115: check b of a monomial S of degree d is the set of positions j with j[t_l - 1] = b[l] for every l < m - d,
where t_0 < t_1 < … are the coordinates outside S, and a check sum is the sum of the block over its check. R117: each
check has 2^d positions, the checks of a monomial partition the positions, and the check sum of a generator row of no
higher degree is 1 for the check's own monomial and else 0. -/
def Obligations.ChecksAreDualToTheRows : Prop :=
  ∀ (m d : Nat) (S : List Nat), S ∈ monosOfDegree m d →
    (∀ T : List Nat, T.Pairwise (· < ·) → (∀ i, i ∈ T ↔ 1 ≤ i ∧ i ≤ m ∧ i ∉ S) →
      T.length = m - d ∧
      ∀ b j : Nat, inCheck m S b j = true ↔ ∀ l t, T[l]? = some t → j.testBit (t - 1) = b.testBit l) ∧
    (∀ (b : Nat) (y : Nat → Bool), checkSum m S b y = xorSum (fun j => inCheck m S b j && y j) (2 ^ m)) ∧
    (∀ b < 2 ^ (m - d), (List.range (2 ^ m)).countP (inCheck m S b) = 2 ^ d) ∧
    (∀ j < 2 ^ m, ∃ b < 2 ^ (m - d), inCheck m S b j = true ∧
      ∀ b' < 2 ^ (m - d), inCheck m S b' j = true → b' = b) ∧
    ∀ (d' : Nat) (S' : List Nat), d' ≤ d → S' ∈ monosOfDegree m d' → ∀ b < 2 ^ (m - d),
      checkSum m S b (monoAt S') = decide (S' = S)

/-- The codeword of message `u` decodes to `u` (R173, part 1). -/
def Obligations.DecoderInvertsTheEncoder : Prop :=
  ∀ (r m : Nat) (u : List Bool), r ≤ m → u.length = codeDim r m →
    reedDecode
      ((List.range (2 ^ m)).map (fun j => xorSum (fun t => u.getD t false && genEntry r m t j) (codeDim r m)))
      r m = u

/-- A codeword with at most 2^(m-r-1) - 1 errors decodes to its message (R173, part 2). -/
def Obligations.DecoderCorrectsErrors : Prop :=
  ∀ (r m : Nat) (u : List Bool) (e : Nat → Bool), r < m → u.length = codeDim r m →
    (List.range (2 ^ m)).countP e ≤ 2 ^ (m - r - 1) - 1 →
    reedDecode
      ((List.range (2 ^ m)).map (fun j =>
        xor (xorSum (fun t => u.getD t false && genEntry r m t j) (codeDim r m)) (e j)))
      r m = u

/-- R176: the first stage's decisions are the majorities of the runs of 2^(m-r) CHECKS output bits. -/
def Obligations.FirstStageVotesOnTheChecks : Prop :=
  ∀ (r m : Nat) (y : List Bool), r ≤ m →
    stageDecisions m r y =
      (List.range (m.choose r)).map (fun p =>
        majority ((((syndrome r m (y.getD · false)).drop (p * 2 ^ (m - r))).take (2 ^ (m - r))).countP id)
          (2 ^ (m - r)))

/-- The vote of R169: more than half decides, and a tie gives 0. -/
def Obligations.MajorityBreaksTiesToZero : Prop :=
  ∀ ones total : Nat, majority ones total = true ↔ total < 2 * ones

/-- R153: TRANSMIT at PE = 0 is accepted, runs to its completion, copies and counts no flip, and at PE = 65536 it is
accepted, runs to its completion, complements and counts LEN flips, for every sequence of draws. -/
def Obligations.TransmitAtTheBoundaries : Prop :=
  ∀ (s : State) (src dst : Buf), s.busy = false → src ≠ dst → s.len.toNat ≤ 65536 →
    (s.pe = 0#32 → ∃ t, exec (.transmit src dst) s = .next t ∧
      let u := sequencerRun s.len.toNat t
      Completed s.len.toNat 1 u ∧ (∀ i < s.len.toNat, u.bufBit dst i = s.bufBit src i) ∧ u.flips = 0#32) ∧
    (s.pe = 65536#32 → ∃ t, exec (.transmit src dst) s = .next t ∧
      let u := sequencerRun s.len.toNat t
      Completed s.len.toNat 1 u ∧ (∀ i < s.len.toNat, u.bufBit dst i = !s.bufBit src i) ∧ u.flips = s.len)

/-- The round trip: with the built code's own matrix in GRAM, ENCODE into the other buffer and, with LEN set to the
codewords' length, DECODE back are both accepted and run to their completion; and whatever the host has put in the
source stream in between, DECODE restores every bit of it from the codewords (R135, R165, R173 part 1). -/
def Obligations.EncodeThenDecodeRestoresTheMessage : Prop :=
  ∀ (s : State) (src dst : Buf), s.Inv → s.busy = false → src ≠ dst → s.built = true →
    s.grows = s.K → s.gcols = s.N →
    (∀ i < s.K.toNat, ∀ j < s.N.toNat, s.gBit i j = genEntry s.BR.toNat s.BM.toNat i j) →
    s.len.toNat % s.K.toNat = 0 → s.len.toNat / s.K.toNat * s.N.toNat ≤ 65536 → s.len.toNat ≤ 65536 →
    ∃ t, exec (.encode src dst) s = .next t ∧
      let T := s.len.toNat / s.K.toNat
      let u := sequencerRun T t
      Completed T s.N.toNat u ∧
      ∀ w : State, (w = u ∨ ∃ g, w = u.setBufBits src 0 s.len.toNat g) →
        ∃ v, exec (.decode dst src) { w with len := BitVec.ofNat 32 (T * s.N.toNat) } = .next v ∧
          let x := sequencerRun T v
          Completed T s.K.toNat x ∧ ∀ i < s.len.toNat, x.bufBit src i = s.bufBit src i

/-- DEINTERLEAVE after INTERLEAVE with the same ILV, and INTERLEAVE after DEINTERLEAVE, give the source stream back
(R193, part 1): both commands are accepted and run to their completion, and whatever the host has put in the source
buffer in between, the second command restores every bit of it from the first one's output. -/
def Obligations.InterleaveAndDeinterleaveUndoEachOther : Prop :=
  ∀ (s : State) (src dst : Buf), s.busy = false → src ≠ dst → s.irows ≠ 0#16 → s.icols ≠ 0#16 →
    s.len.toNat % (s.irows.toNat * s.icols.toNat) = 0 → s.len.toNat ≤ 65536 →
    let F := s.irows.toNat * s.icols.toNat
    let T := s.len.toNat / F
    ∀ first second : Buf → Buf → Instr,
      (first = .interleave ∧ second = .deinterleave) ∨ (first = .deinterleave ∧ second = .interleave) →
      ∃ t, exec (first src dst) s = .next t ∧
        let u := sequencerRun T t
        Completed T F u ∧
        ∀ w : State, (w = u ∨ ∃ g, w = u.setBufBits src 0 s.len.toNat g) →
          ∃ v, exec (second dst src) w = .next v ∧
            let x := sequencerRun T v
            Completed T F x ∧ ∀ i < s.len.toNat, x.bufBit src i = s.bufBit src i

/-! ### The slave port -/

/-- R70: a register read changes nothing of the block, a second read gives the same, and a write to a register other
than CMD, ABORT and STATUS leaves flags, counts, the built code, the command and the memories. -/
def Obligations.RegisterAccessesHaveNoOtherEffect : Prop :=
  (∀ (s : State) (r : Reg),
    hostRead .word (BitVec.ofNat 16 r.offset) s =
      .next { s with env := { s.env with response := .data (s.readReg r) } }) ∧
  ∀ (s : State) (r : Reg) (v : Word), r ≠ .cmd → r ≠ .abort → r ≠ .status →
    ∃ t, hostWrite .word (BitVec.ofNat 16 r.offset) v s = .next t ∧
      SameFlags s t ∧ SameCounts s t ∧ SameCode s t ∧ SameCommand s t ∧ SameMemory s t

/-- A host write to CFG, GSHAPE, PE, ILV, LEN or IRQEN is read back in the register's fields, its reserved bits as 0,
and no other register changes but PADCNT, which follows LEN (R22, R25–R28, R36, R39, R41, R243). -/
def Obligations.HostRegistersReadBack : Prop :=
  ∀ (s : State) (v : Word) (r : Reg) (mask : Word),
    (r, mask) ∈ [(Reg.cfg, 0xFF#32), (Reg.gshape, 0xFFFFFFFF#32), (Reg.pe, 0xFFFFFFFF#32),
      (Reg.ilv, 0xFFFFFFFF#32), (Reg.len, 0xFFFFFFFF#32), (Reg.irqen, 1#32)] →
    ∃ t, hostWrite .word (BitVec.ofNat 16 r.offset) v s = .next t ∧
      t.readReg r = v &&& mask ∧
      (∀ q, q ≠ r → q ≠ .padcnt → t.readReg q = s.readReg q) ∧
      (r ≠ .len → t.readReg .padcnt = s.readReg .padcnt)

/-- R42: a host write to ID, CODE, BUILTCFG, OUTLEN, BLOCKS, PADCNT or FLIPS changes nothing, and one to STATUS has
only the effects of R31. -/
def Obligations.ReadOnlyRegistersIgnoreWrites : Prop :=
  (∀ (s : State) (v : Word),
    ∀ r ∈ [Reg.id, .code, .builtcfg, .outlen, .blocks, .padcnt, .flips],
      hostWrite .word (BitVec.ofNat 16 r.offset) v s = .next { s with env := { s.env with response := .written } }) ∧
  ∀ (s : State) (v : Word),
    hostWrite .word (BitVec.ofNat 16 Reg.status.offset) v s =
      .next { s with
        done := s.done && !v.getLsbD 2, dropped := s.dropped && !v.getLsbD 3
        env := { s.env with response := .written } }

/-- R31: a host write to STATUS clears DONE if bit 2 is 1 and DROPPED if bit 3 is 1; every other bit is ignored and no
other state changes. -/
def Obligations.StatusWriteClearsDoneAndDropped : Prop :=
  ∀ (s : State) (v : Word), ∃ t,
    hostWrite .word 0x24#16 v s = .next t ∧
      t.done = (if v.getLsbD 2 then false else s.done) ∧
      t.dropped = (if v.getLsbD 3 then false else s.dropped) ∧
      t.aborted = s.aborted ∧ t.err = s.err ∧
      SameHostRegs s t ∧ SameShape s t ∧ SameCode s t ∧ SameCounts s t ∧ SameCommand s t ∧ SameMemory s t

/-- R37: a write to ABORT with bit 0 set while a command runs sets the abort request; any other write to ABORT has no
effect, and ABORT reads 0. -/
def Obligations.AbortWriteNeedsARunningCommand : Prop :=
  ∀ (s : State) (v : Word),
    (v.getLsbD 0 = true → s.busy = true →
      hostWrite .word 0x30#16 v s =
        .next { s with abortPending := true, env := { s.env with response := .written } }) ∧
    (v.getLsbD 0 = false ∨ s.busy = false →
      hostWrite .word 0x30#16 v s = .next { s with env := { s.env with response := .written } }) ∧
    s.readReg .abort = 0#32

/-- An access that is narrow or misaligned gets a bus error, changes nothing of the block, and returns no data (R61).
That the model answers a next state that holds the bus error and goes on, where R61 says that a model should refuse the
access at the host layer, is the model's choice (log 5). -/
def Obligations.UnsupportedAccessIsABusError : Prop :=
  ∀ (s : State) (width : Width) (addr : BitVec 16) (v : Word), width ≠ .word ∨ addr.toNat % 4 ≠ 0 →
    hostRead width addr s = .next { s with env := { s.env with response := .busError } } ∧
    hostWrite width addr v s = .next { s with env := { s.env with response := .busError } }

/-- An aligned word at an unmapped offset reads 0 and ignores writes, without a side effect (R41, R62). -/
def Obligations.UnmappedAccessHasNoEffect : Prop :=
  ∀ (s : State) (addr : BitVec 16) (v : Word), addr.toNat % 4 = 0 →
    (0x40 ≤ addr.toNat ∧ addr.toNat < 0x4000) ∨ 0xA000 ≤ addr.toNat →
    hostRead .word addr s = .next { s with env := { s.env with response := .data 0#32 } } ∧
    hostWrite .word addr v s = .next { s with env := { s.env with response := .written } }

/-- While BUSY = 0 a word of BUF0, BUF1 or GRAM reads back as written, every other word of the memories and every
register stays, and reading changes nothing of the block (R64, R66, R68). -/
def Obligations.MemoryWordReadsBack : Prop :=
  ∀ (s : State) (addr : BitVec 16) (v : Word), s.busy = false → addr.toNat % 4 = 0 →
    memLo ≤ addr.toNat → addr.toNat < memHi →
    ∃ t, hostWrite .word addr v s = .next t ∧
      hostRead .word addr t = .next { t with env := { t.env with response := .data v } } ∧
      (∀ a, a < addr.toNat ∨ addr.toNat + 4 ≤ a → t.byteAt a = s.byteAt a) ∧
      SameHostRegs s t ∧ SameShape s t ∧ SameCode s t ∧ SameFlags s t ∧ SameCounts s t ∧ SameCommand s t

/-- Stream bit i is bit i mod 32 of word i div 32 of its buffer, GRAM bit (i, j) is bit j mod 32 of word
8·i + j div 32, and setting one bit of a buffer sets that bit alone (R63, R64, R65, R66). -/
def Obligations.StreamAndGramBitsAreWordBits : Prop :=
  (∀ (s : State) (b : Buf) (i : Nat),
    s.bufBit b i = (s.wordAt (bufBase b + 4 * (i / 32))).getLsbD (i % 32)) ∧
  (∀ (s : State) (i j : Nat), j < 256 →
    s.gBit i j = (s.wordAt (0x8000 + 4 * (8 * i + j / 32))).getLsbD (j % 32)) ∧
  (∀ (s : State) (b b' : Buf) (i i' : Nat) (v : Bool), i < 65536 → i' < 65536 →
    (s.setBufBits b i 1 (fun _ => v)).bufBit b' i' = if b' = b ∧ i' = i then v else s.bufBit b' i')

/-- R69: while a stream command runs, a host access to BUF0 or BUF1, and while BUILD, ENCODE or MATVEC runs, one to
GRAM, faults; while BUILD runs a buffer access, and while another command runs a GRAM access, is plain. -/
def Obligations.MemoryInUseIsUnpredictable : Prop :=
  ∀ (s : State) (c : Latched) (addr : BitVec 16) (v : Word), s.Inv → s.lc = some c → addr.toNat % 4 = 0 →
    (c.op ≠ .build → 0x4000 ≤ addr.toNat → addr.toNat < 0x8000 →
      hostRead .word addr s = .fault .unpredictableAccess ∧
      hostWrite .word addr v s = .fault .unpredictableAccess) ∧
    (c.op = .build ∨ c.op = .encode ∨ c.op = .matvec → 0x8000 ≤ addr.toNat → addr.toNat < 0xA000 →
      hostRead .word addr s = .fault .unpredictableAccess ∧
      hostWrite .word addr v s = .fault .unpredictableAccess) ∧
    ((c.op = .build ∧ 0x4000 ≤ addr.toNat ∧ addr.toNat < 0x8000) ∨
     (c.op ≠ .build ∧ c.op ≠ .encode ∧ c.op ≠ .matvec ∧ 0x8000 ≤ addr.toNat ∧ addr.toNat < 0xA000) →
      hostRead .word addr s =
        .next { s with env := { s.env with response := .data (s.wordAt addr.toNat) } } ∧
      ∃ t, hostWrite .word addr v s = .next t ∧ t.wordAt addr.toNat = v ∧
        (∀ a, a < addr.toNat ∨ addr.toNat + 4 ≤ a → t.byteAt a = s.byteAt a) ∧ SameCommand s t)

/-- STATUS shows BUSY, BUILT, DONE, DROPPED and ABORTED in bits 0 to 4, the code of R204 in bits 11:8, and 0 elsewhere
(R30, R204). -/
def Obligations.StatusWordShowsTheFlags : Prop :=
  ∀ s : State,
    let w := s.readReg .status
    w.getLsbD 0 = s.busy ∧ w.getLsbD 1 = s.built ∧ w.getLsbD 2 = s.done ∧ w.getLsbD 3 = s.dropped ∧
    w.getLsbD 4 = s.aborted ∧ w.extractLsb' 5 3 = 0#3 ∧ w.extractLsb' 12 20 = 0#20 ∧
    w.extractLsb' 8 4 =
      (match s.err with
       | .none => 0#4
       | .invalidParameter => 1#4
       | .lengthMismatch => 2#4
       | .dimensionMismatch => 3#4
       | .notBuilt => 4#4
       | .capacity => 5#4
       | .illegalCommand => 6#4)

/-- PADCNT is the least number of bits that completes LEN to a multiple of K, and 0 while nothing is built (R36). -/
def Obligations.PaddingCompletesTheBlock : Prop :=
  ∀ s : State, s.Inv →
    (s.built = true →
      let p := (s.readReg .padcnt).toNat
      p < s.K.toNat ∧ (s.len.toNat + p) % s.K.toNat = 0) ∧
    (s.built = false → s.readReg .padcnt = 0#32)

/-- `irq` is DONE ∧ IE, and while IE is set it is high after every completion (R39, R210): after every step that ends
a running command, by its last block or by abort; after every issue that ends at once, because it fails or because the
command has no block step (R200, R202); and so after every write to CMD in an idle machine that leaves it idle, the
word being a command's or not. -/
def Obligations.InterruptAssertsAtCompletion : Prop :=
  (∀ s : State, s.irq = (s.done && s.ie)) ∧
  (∀ s t : State, step s = .next t → s.busy = true → t.busy = false → t.ie = true →
    t.irq = true ∨ ∃ rest, s.env.inputs = .reset :: rest) ∧
  (∀ (s t : State) (i : Instr), s.busy = false → exec i s = .next t → t.err ≠ .none → s.ie = true →
    t.irq = true) ∧
  (∀ (s t : State) (i : Instr), s.busy = false → exec i s = .next t → t.busy = false → s.ie = true →
    t.irq = true) ∧
  (∀ (s t : State) (w : Word), s.busy = false → onWriteCmd w s = .next t → t.busy = false → s.ie = true →
    t.irq = true) ∧
  ∀ (s t : State) (w : Word) (rest : List Input), s.env.inputs = .write .word cmdAddr w :: rest → step s = .next t →
    s.busy = false → t.busy = false → s.ie = true → t.irq = true

/-! ### The whole machine -/

/-- The invariant holds after reset. -/
def Obligations.InvariantHoldsAtReset : Prop := State.reset.Inv

/-- Every step of every agent keeps the invariant. -/
def Obligations.InvariantIsKept : Prop :=
  ∀ s t : State, s.Inv → step s = .next t → t.Inv

/-- Only a block step of BUILD and reset change the built code (BUILT, BR, BM, K, N), and only reset clears BUILT (R23,
R24, R30, R47). -/
def Obligations.OnlyBuildChangesTheCode : Prop :=
  (∀ s t : State, step s = .next t →
    SameCode s t ∨ s.atBlockStepOf .build ∨ ∃ rest, s.env.inputs = .reset :: rest) ∧
  ∀ s t : State, step s = .next t → s.built = true →
    t.built = true ∨ ∃ rest, s.env.inputs = .reset :: rest

/-- Only a block step of TRANSMIT takes draws, and FLIPS changes only by a block step of TRANSMIT, by an accepted
TRANSMIT issue, which sets it to 0, and by reset (R38, R151). -/
def Obligations.FlipsAndDrawsBelongToTransmit : Prop :=
  ∀ s t : State, s.Inv → step s = .next t →
    (s.atBlockStepOf .transmit ∨ (t.env.port = s.env.port ∧ t.env.drawn = s.env.drawn)) ∧
    (t.flips = s.flips ∨ s.atBlockStepOf .transmit ∨ (∃ rest, s.env.inputs = .reset :: rest) ∨
      (t.flips = 0#32 ∧ s.busy = false ∧ ∃ w rest src dst,
        s.env.inputs = .write .word cmdAddr w :: rest ∧ decodeCW w = .ok (.transmit src dst) ∧
        firstError (.transmit src dst) s = none))

/-- R241: a host write to CFG, GSHAPE, PE, ILV, LEN or IRQEN while a command runs is in the register at once and
changes nothing the command does: after any number of sequencer steps its output, counts, flags, code and draws are
those of the run without the write; and CFG affects nothing but the issue of BUILD. -/
def Obligations.RegisterWritesDoNotReachTheCommand : Prop :=
  (∀ (s : State) (v : Word) (n : Nat), s.busy = true →
    ∀ r ∈ [Reg.cfg, .gshape, .pe, .ilv, .len, .irqen],
      ∃ t, hostWrite .word (BitVec.ofNat 16 r.offset) v s = .next t ∧
        (r = .cfg → t.cfgM = v.extractLsb' 0 4 ∧ t.cfgR = v.extractLsb' 4 4) ∧
        (r = .gshape → t.grows = v.extractLsb' 0 16 ∧ t.gcols = v.extractLsb' 16 16) ∧
        (r = .pe → t.pe = v) ∧
        (r = .ilv → t.irows = v.extractLsb' 0 16 ∧ t.icols = v.extractLsb' 16 16) ∧
        (r = .len → t.len = v) ∧
        (r = .irqen → t.ie = v.getLsbD 0 ∧ t.irq = (s.done && v.getLsbD 0)) ∧
        let x := sequencerRun n s
        let y := sequencerRun n t
        y.mem = x.mem ∧ SameCounts x y ∧ SameFlags x y ∧ SameCode x y ∧ SameCommand x y ∧
        y.env.port = x.env.port ∧ y.env.drawn = x.env.drawn) ∧
  (∀ (s t : State) (M R : BitVec 4) (i : Instr), isStream i = true → exec i s = .next t →
    exec i { s with cfgM := M, cfgR := R } = .next { t with cfgM := M, cfgR := R }) ∧
  ∀ (s : State) (M R : BitVec 4),
    sequencerStep { s with cfgM := M, cfgR := R } = { sequencerStep s with cfgM := M, cfgR := R }

/-- R230: the reset input, whatever the block was doing, leaves every register at its reset value (ID is constant and
every other register reads 0), no latched command, no abort request and `irq` low. -/
def Obligations.ResetGivesTheResetState : Prop :=
  ∀ (s : State) (rest : List Input), s.env.inputs = .reset :: rest →
    ∃ t, step s = .next t ∧
      (∀ r : Reg, t.readReg r = if r = .id then 0x524D0001#32 else 0#32) ∧
      t.lc = none ∧ t.abortPending = false ∧ t.busy = false ∧ t.irq = false

/-! ### What a register shows and what a command latches -/

/-- A host read of each register, at its offset of R21, answers the fields of the state in the register's bits (R22 to
R29, R34 to R40), reserved bits as 0 (R41). -/
def Obligations.RegisterReadsShowTheState : Prop :=
  ∀ s : State,
    readsAs s 0x000#16 0x524D0001#32 ∧
    (∃ w, readsAs s 0x004#16 w ∧ w.extractLsb' 0 4 = s.cfgM ∧ w.extractLsb' 4 4 = s.cfgR ∧
      w.extractLsb' 8 24 = 0#24) ∧
    (∃ w, readsAs s 0x008#16 w ∧ w.extractLsb' 0 16 = s.K ∧ w.extractLsb' 16 16 = s.N) ∧
    (∃ w, readsAs s 0x00C#16 w ∧ w.extractLsb' 0 4 = s.BM ∧ w.extractLsb' 4 4 = s.BR ∧
      w.extractLsb' 8 24 = 0#24) ∧
    (∃ w, readsAs s 0x010#16 w ∧ w.extractLsb' 0 16 = s.grows ∧ w.extractLsb' 16 16 = s.gcols) ∧
    readsAs s 0x014#16 s.pe ∧
    (∃ w, readsAs s 0x018#16 w ∧ w.extractLsb' 0 16 = s.irows ∧ w.extractLsb' 16 16 = s.icols) ∧
    readsAs s 0x01C#16 s.len ∧
    readsAs s 0x020#16 0#32 ∧
    (∃ w, readsAs s 0x024#16 w ∧ w.getLsbD 0 = s.busy ∧ w.getLsbD 1 = s.built ∧ w.getLsbD 2 = s.done ∧
      w.getLsbD 3 = s.dropped ∧ w.getLsbD 4 = s.aborted ∧ w.extractLsb' 8 4 = s.err.code) ∧
    readsAs s 0x028#16 s.outlen ∧
    readsAs s 0x02C#16 s.blocks ∧
    readsAs s 0x030#16 0#32 ∧
    (∃ w, readsAs s 0x034#16 w ∧ w.toNat =
      if s.built then (s.K.toNat - s.len.toNat % s.K.toNat) % s.K.toNat else 0) ∧
    readsAs s 0x038#16 s.flips ∧
    (∃ w, readsAs s 0x03C#16 w ∧ w.getLsbD 0 = s.ie ∧ w.extractLsb' 1 31 = 0#31)

/-- A command that runs after its issue has latched every operand field R44 names for it, from the registers at the
issue: PE (TRANSMIT), ILV (INTERLEAVE, DEINTERLEAVE), the built code (ENCODE, DECODE, CHECKS), GSHAPE (ENCODE, MATVEC)
and, by R110, CFG (BUILD). -/
def Obligations.AcceptedIssueLatchesItsOperands : Prop :=
  ∀ (s t : State) (i : Instr) (c : Latched), s.busy = false → exec i s = .next t → t.lc = some c →
    c.op = opcodeOf i ∧
    (c.op = .transmit → c.pe = s.pe) ∧
    (c.op = .interleave ∨ c.op = .deinterleave → c.irows = s.irows ∧ c.icols = s.icols) ∧
    (c.op = .encode ∨ c.op = .decode ∨ c.op = .checks →
      c.r = s.BR ∧ c.m = s.BM ∧ c.K = s.K ∧ c.N = s.N) ∧
    (c.op = .encode ∨ c.op = .matvec → c.grows = s.grows ∧ c.gcols = s.gcols) ∧
    (c.op = .build → c.r = s.cfgR ∧ c.m = s.cfgM)
end

