-- ==== Sys2Proof/Laws/Memory.lean ====
section
/-! SUPPORT. What a memory read gives after a memory write, and that every write keeps the canonical form (R64, R71,
R73). -/

namespace Sys2Proof.Machine

theorem Memory.get?_append (m n : Memory) (a : Nat) :
    Memory.get? (m ++ n) a = (m.get? a).or (n.get? a) := by
  induction m with
  | nil => simp [Memory.get?]
  | cons c m ih =>
    obtain ⟨k, v⟩ := c
    by_cases h : k = a <;> simp [Memory.get?, h, ih]

theorem Memory.get?_filter (m : Memory) (p : Nat → Bool) (a : Nat) :
    Memory.get? (m.filter (fun c => p c.1)) a = if p a then m.get? a else none := by
  induction m with
  | nil => simp [Memory.get?]
  | cons c m ih =>
    obtain ⟨k, v⟩ := c
    by_cases hk : k = a
    · subst hk
      by_cases hp : p k
      · simp [hp, Memory.get?]
      · simpa [hp, Memory.get?] using ih
    · by_cases hp : p k
      · simp [hp, Memory.get?, hk, ih]
      · simp [hp, Memory.get?, hk, ih]

theorem Memory.get?_cells (f : Nat → Byte) (lo count a : Nat) :
    (Memory.cells f lo count).get? a = if lo ≤ a ∧ a < lo + count then some (f a) else none := by
  induction count generalizing lo with
  | zero =>
    simp [Memory.cells, Memory.get?]
  | succ n ih =>
    by_cases h : lo = a
    · subst h
      simp [Memory.cells, Memory.get?]
    · have e : (lo + 1 ≤ a ∧ a < lo + 1 + n) ↔ (lo ≤ a ∧ a < lo + (n + 1)) := by omega
      simp only [Memory.cells, Memory.get?, if_neg h, ih, e]

/-- A read after a write gives what was written inside the written range and what was there before outside it. -/
theorem Memory.get?_put (m : Memory) (lo count : Nat) (f : Nat → Byte) (a : Nat) :
    (m.put lo count f).get? a = if lo ≤ a ∧ a < lo + count then some (f a) else m.get? a := by
  have below := Memory.get?_filter m (fun k => decide (k < lo)) a
  have above := Memory.get?_filter m (fun k => decide (lo + count ≤ k)) a
  unfold Memory.put
  rw [Memory.get?_append, Memory.get?_append, Memory.get?_cells, below, above]
  by_cases h1 : a < lo
  · have h2 : ¬(lo ≤ a ∧ a < lo + count) := by omega
    have h3 : ¬(lo + count ≤ a) := by omega
    simp [h1, h2, h3]
  · by_cases h2 : a < lo + count
    · have h3 : lo ≤ a ∧ a < lo + count := by omega
      simp [h1, h3]
    · have h3 : ¬(lo ≤ a ∧ a < lo + count) := by omega
      have h4 : lo + count ≤ a := by omega
      simp [h1, h3, h4]

theorem Memory.mem_cells (f : Nat → Byte) (lo count : Nat) (c : Host.Cell) :
    c ∈ Memory.cells f lo count → lo ≤ c.1 ∧ c.1 < lo + count := by
  induction count generalizing lo with
  | zero => simp [Memory.cells]
  | succ n ih =>
    intro h
    simp only [Memory.cells, List.mem_cons] at h
    obtain rfl | h := h
    · simp
    · have := ih (lo + 1) h
      omega

theorem Memory.cells_rising (f : Nat → Byte) (lo count : Nat) :
    (Memory.cells f lo count).Pairwise (fun c d => c.1 < d.1) := by
  induction count generalizing lo with
  | zero => simp [Memory.cells]
  | succ n ih =>
    simp only [Memory.cells, List.pairwise_cons]
    refine ⟨fun c hc => ?_, ih (lo + 1)⟩
    have := Memory.mem_cells f (lo + 1) n c hc
    omega

/-- Every write inside the memories keeps the canonical form. -/
theorem Memory.wf_put {m : Memory} {lo count : Nat} (f : Nat → Byte) (h : m.wf) (h1 : memLo ≤ lo)
    (h2 : lo + count ≤ memHi) : (m.put lo count f).wf := by
  obtain ⟨hp, hr⟩ := h
  have inCells := fun c hc => Memory.mem_cells f lo count c hc
  constructor
  · unfold Memory.put
    rw [List.pairwise_append, List.pairwise_append]
    refine ⟨⟨hp.filter _, Memory.cells_rising f lo count, ?_⟩, hp.filter _, ?_⟩
    · intro c hc d hd
      have := inCells d hd
      simp only [List.mem_filter, decide_eq_true_eq] at hc
      omega
    · intro c hc d hd
      simp only [List.mem_append, List.mem_filter, decide_eq_true_eq] at hc hd
      obtain hc | hc := hc
      · omega
      · have := inCells c hc
        omega
  · intro c hc
    simp only [Memory.put, List.mem_append, List.mem_filter] at hc
    obtain (hc | hc) | hc := hc
    · exact hr c hc.1
    · have := inCells c hc
      omega
    · exact hr c hc.1

/-- No cell of a rising memory whose addresses all lie above `a` is at `a`. -/
theorem Memory.get?_eq_none {m : Memory} {a : Nat} (h : ∀ c ∈ m, a < c.1) : m.get? a = none := by
  induction m with
  | nil => rfl
  | cons c m ih =>
    obtain ⟨k, v⟩ := c
    have hk : k ≠ a := by have := h (k, v) (by simp); simp at this; omega
    simp only [Memory.get?, if_neg hk]
    exact ih fun d hd => h d (by simp [hd])

/-- Equal memories are equal data: two canonical memories that read alike everywhere are one list. -/
theorem Memory.wf_ext {m n : Memory} (hm : m.wf) (hn : n.wf) (h : ∀ a, m.get? a = n.get? a) : m = n := by
  obtain ⟨hm, -⟩ := hm
  obtain ⟨hn, -⟩ := hn
  induction m generalizing n with
  | nil =>
    cases n with
    | nil => rfl
    | cons d n => have := h d.1; simp [Memory.get?] at this
  | cons c m ih =>
    obtain ⟨k, v⟩ := c
    rw [List.pairwise_cons] at hm
    cases n with
    | nil => have := h k; simp [Memory.get?] at this
    | cons d n =>
      obtain ⟨l, w⟩ := d
      rw [List.pairwise_cons] at hn
      have hkl : k = l := by
        rcases Nat.lt_trichotomy k l with hlt | heq | hgt
        · exfalso
          have hk := h k
          rw [Memory.get?_eq_none (m := (l, w) :: n) (a := k) (by
            intro c hc
            rcases List.mem_cons.mp hc with rfl | hc
            · exact hlt
            · exact lt_trans hlt (hn.1 c hc))] at hk
          simp [Memory.get?] at hk
        · exact heq
        · exfalso
          have hl := h l
          rw [Memory.get?_eq_none (m := (k, v) :: m) (a := l) (by
            intro c hc
            rcases List.mem_cons.mp hc with rfl | hc
            · exact hgt
            · exact lt_trans hgt (hm.1 c hc))] at hl
          simp [Memory.get?] at hl
      subst hkl
      have hv : v = w := by have := h k; simpa [Memory.get?] using this
      subst hv
      congr 1
      refine ih (fun a => ?_) hm.2 hn.2
      have ha := h a
      by_cases hka : k = a
      · subst hka
        rw [Memory.get?_eq_none hm.1, Memory.get?_eq_none hn.1]
      · simpa [Memory.get?, hka] using ha

/-! ### The state's bytes -/

theorem State.byteAt_putBytes (s : State) (lo count : Nat) (f : Nat → Byte) (a : Nat) :
    (s.putBytes lo count f).byteAt a = if lo ≤ a ∧ a < lo + count then f a else s.byteAt a := by
  simp only [State.byteAt, State.putBytes, Memory.get?_put]
  split <;> simp

theorem State.byteAt_putBytes_outside (s : State) (lo count : Nat) (f : Nat → Byte) {a : Nat}
    (h : a < lo ∨ lo + count ≤ a) : (s.putBytes lo count f).byteAt a = s.byteAt a := by
  rw [State.byteAt_putBytes, if_neg (by omega)]

/-- Two states with the same memory and the same reset contents read alike. -/
theorem State.byteAt_congr {s t : State} (hm : t.mem = s.mem) (he : t.env.epoch = s.env.epoch) (a : Nat) :
    t.byteAt a = s.byteAt a := by
  simp [State.byteAt, hm, he]

theorem State.bufBit_congr {s t : State} (hm : t.mem = s.mem) (he : t.env.epoch = s.env.epoch) (b : Buf) (i : Nat) :
    t.bufBit b i = s.bufBit b i := by
  simp [State.bufBit, State.byteAt_congr hm he]

theorem State.gBit_congr {s t : State} (hm : t.mem = s.mem) (he : t.env.epoch = s.env.epoch) (i j : Nat) :
    t.gBit i j = s.gBit i j := by
  simp [State.gBit, State.byteAt_congr hm he]

end Sys2Proof.Machine
end

