-- ==== Sys2Proof/Laws/Bits.lean ====
section
/-! SUPPORT. Bits, words and blocks of the memories: what `byteOf`, `wordAt`, `putWord`, `setBufBits` and `setGram` give
(R63–R66, R71), and the sums over GF(2) (R9). -/

namespace Sys2Proof.Machine

@[simp] theorem byteOf_getLsbD (f : Nat → Bool) (q : Nat) : (byteOf f).getLsbD q = (decide (q < 8) && f q) := by
  unfold byteOf
  rw [BitVec.getLsbD_ofFnLE]
  split <;> simp_all

/-- Bit `i` of a word is bit `i mod 8` of its byte `i div 8`: little-endian bytes (R66). -/
theorem State.wordAt_getLsbD (s : State) (a i : Nat) (h : i < 32) :
    (s.wordAt a).getLsbD i = (s.byteAt (a + i / 8)).getLsbD (i % 8) := by
  unfold State.wordAt
  simp only [BitVec.getLsbD_append]
  rcases (by omega : i / 8 = 0 ∨ i / 8 = 1 ∨ i / 8 = 2 ∨ i / 8 = 3) with h0 | h0 | h0 | h0
  · have : i < 8 := by omega
    simp [h0, this, Nat.mod_eq_of_lt this]
  · have h1 : ¬ i < 8 := by omega
    have h2 : i - 8 < 8 := by omega
    have h3 : i % 8 = i - 8 := by omega
    simp [h0, h1, h2, h3]
  · have h1 : ¬ i < 8 := by omega
    have h2 : ¬ i - 8 < 8 := by omega
    have h3 : i % 8 = i - 8 - 8 := by omega
    have h4 : i - 8 - 8 < 8 := by omega
    simp [h0, h1, h2, h3, h4]
  · have h1 : ¬ i < 8 := by omega
    have h2 : ¬ i - 8 < 8 := by omega
    have h3 : i % 8 = i - 8 - 8 - 8 := by omega
    have h4 : ¬ i - 8 - 8 < 8 := by omega
    simp [h0, h1, h2, h3, h4]

theorem State.byteAt_putWord (s : State) (a : Nat) (w : Word) (x : Nat) :
    (s.putWord a w).byteAt x = if a ≤ x ∧ x < a + 4 then w.extractLsb' (8 * (x - a)) 8 else s.byteAt x := by
  rw [State.putWord, State.byteAt_putBytes]

/-- A word reads back as it was written (R64). -/
theorem State.wordAt_putWord (s : State) (a : Nat) (w : Word) : (s.putWord a w).wordAt a = w := by
  apply BitVec.eq_of_getLsbD_eq
  intro i hi
  rw [State.wordAt_getLsbD _ _ _ hi, State.byteAt_putWord, if_pos (by omega)]
  have h1 : a + i / 8 - a = i / 8 := by omega
  have h2 : 8 * (i / 8) + i % 8 = i := by omega
  simp [h1, h2]
  omega

/-- A write of a word leaves every word that does not overlap it (R64). -/
theorem State.wordAt_putWord_other (s : State) (a b : Nat) (w : Word) (h : b + 4 ≤ a ∨ a + 4 ≤ b) :
    (s.putWord a w).wordAt b = s.wordAt b := by
  have hx : ∀ x, b ≤ x → x < b + 4 → (s.putWord a w).byteAt x = s.byteAt x := by
    intro x h1 h2
    rw [State.byteAt_putWord, if_neg (by omega)]
  simp only [State.wordAt]
  rw [hx (b + 3) (by omega) (by omega), hx (b + 2) (by omega) (by omega), hx (b + 1) (by omega) (by omega),
    hx b (by omega) (by omega)]

/-! ### Blocks of a buffer -/

/-- The bytes that hold the stream bits [off, off + len) of a buffer lie inside the buffer (R63). -/
theorem bitSpan_inside {off len : Nat} (h : off + len ≤ 65536) : off / 8 + bitSpan off len ≤ 8192 := by
  unfold bitSpan
  split <;> omega

theorem bitSpan_mem {off len i : Nat} (h1 : off ≤ i) (h2 : i < off + len) :
    off / 8 ≤ i / 8 ∧ i / 8 < off / 8 + bitSpan off len := by
  unfold bitSpan
  split <;> omega

theorem State.byteAt_setBufBits_outside (s : State) (b : Buf) (off len : Nat) (f : Nat → Bool) {a : Nat}
    (h : a < bufBase b + off / 8 ∨ bufBase b + off / 8 + bitSpan off len ≤ a) :
    (s.setBufBits b off len f).byteAt a = s.byteAt a :=
  State.byteAt_putBytes_outside _ _ _ _ h

/-- The bits of the written buffer: `f` inside the block, as before outside it (R64, R71). -/
theorem State.bufBit_setBufBits (s : State) (b : Buf) (off len : Nat) (f : Nat → Bool) (i : Nat) :
    (s.setBufBits b off len f).bufBit b i = if off ≤ i ∧ i < off + len then f (i - off) else s.bufBit b i := by
  unfold State.bufBit State.setBufBits
  rw [State.byteAt_putBytes]
  have h1 : bufBase b + i / 8 - bufBase b = i / 8 := by omega
  have h2 : 8 * (i / 8) + i % 8 = i := by omega
  have h3 : i % 8 < 8 := Nat.mod_lt _ (by decide)
  by_cases hin : off ≤ i ∧ i < off + len
  · have := bitSpan_mem hin.1 hin.2
    rw [if_pos (by omega), byteOf_getLsbD]
    simp [h1, h2, h3, hin]
  · by_cases hby : bufBase b + off / 8 ≤ bufBase b + i / 8 ∧
        bufBase b + i / 8 < bufBase b + off / 8 + bitSpan off len
    · rw [if_pos hby, byteOf_getLsbD]
      simp [h1, h2, h3, hin]
    · rw [if_neg hby, if_neg hin]

/-- A block written inside one buffer leaves the other buffer (R63). -/
theorem State.bufBit_setBufBits_other (s : State) {b b' : Buf} (off len : Nat) (f : Nat → Bool) {i : Nat}
    (hb : b' ≠ b) (hl : off + len ≤ 65536) (hi : i < 65536) :
    (s.setBufBits b off len f).bufBit b' i = s.bufBit b' i := by
  unfold State.bufBit
  rw [State.byteAt_setBufBits_outside]
  have := bitSpan_inside hl
  cases b <;> cases b' <;> simp_all [bufBase] <;> omega

/-- A block written inside a buffer leaves GRAM (R62). -/
theorem State.gBit_setBufBits (s : State) (b : Buf) (off len : Nat) (f : Nat → Bool) (i j : Nat)
    (hl : off + len ≤ 65536) : (s.setBufBits b off len f).gBit i j = s.gBit i j := by
  unfold State.gBit
  rw [State.byteAt_setBufBits_outside]
  have := bitSpan_inside hl
  cases b <;> simp_all [bufBase, gramBase] <;> omega

theorem State.wf_setBufBits {s : State} {b : Buf} {off len : Nat} (f : Nat → Bool) (h : s.mem.wf)
    (hl : off + len ≤ 65536) : (s.setBufBits b off len f).mem.wf := by
  have := bitSpan_inside hl
  refine Memory.wf_put _ h ?_ ?_ <;> cases b <;> simp [bufBase, memLo, memHi] <;> omega

/-! ### GRAM -/

theorem State.byteAt_setGram_outside (s : State) (g : Nat → Nat → Bool) {a : Nat}
    (h : a < gramBase ∨ gramBase + 8192 ≤ a) : (s.setGram g).byteAt a = s.byteAt a :=
  State.byteAt_putBytes_outside _ _ _ _ h

/-- Every bit of GRAM is written (R65, R110). -/
theorem State.gBit_setGram (s : State) (g : Nat → Nat → Bool) {i j : Nat} (hi : i < 256) (hj : j < 256) :
    (s.setGram g).gBit i j = g i j := by
  unfold State.gBit State.setGram
  rw [State.byteAt_putBytes, if_pos (by omega), byteOf_getLsbD]
  have h1 : (gramBase + 32 * i + j / 8 - gramBase) / 32 = i := by omega
  have h2 : 8 * ((gramBase + 32 * i + j / 8 - gramBase) % 32) + j % 8 = j := by omega
  have h3 : j % 8 < 8 := Nat.mod_lt _ (by decide)
  simp [h1, h2, h3]

theorem State.bufBit_setGram (s : State) (g : Nat → Nat → Bool) (b : Buf) {i : Nat} (hi : i < 65536) :
    (s.setGram g).bufBit b i = s.bufBit b i := by
  unfold State.bufBit
  rw [State.byteAt_setGram_outside]
  cases b <;> simp [bufBase, gramBase] <;> omega

theorem State.wf_setGram {s : State} (g : Nat → Nat → Bool) (h : s.mem.wf) : (s.setGram g).mem.wf :=
  Memory.wf_put _ h (by decide) (by decide)

/-! ### Sums over GF(2) -/

theorem xorSum_congr {f g : Nat → Bool} {count : Nat} (h : ∀ i < count, f i = g i) : xorSum f count = xorSum g count := by
  induction count with
  | zero => rfl
  | succ n ih => simp [xorSum, ih fun i hi => h i (by omega), h n (by omega)]

theorem xorSum_false (count : Nat) : xorSum (fun _ => false) count = false := by
  induction count with
  | zero => rfl
  | succ n ih => simp [xorSum, ih]

theorem xorSum_xor (f g : Nat → Bool) (count : Nat) :
    xorSum (fun i => xor (f i) (g i)) count = xor (xorSum f count) (xorSum g count) := by
  induction count with
  | zero => rfl
  | succ n ih => simp only [xorSum, ih]; cases xorSum f n <;> cases xorSum g n <;> cases f n <;> cases g n <;> rfl

end Sys2Proof.Machine
end

