-- ==== Sys2Proof/Laws/Builder.lean ====
section
/-! SUPPORT. How many monomials, generator rows, decisions and checks there are (R5, R113, R116, R168). -/

namespace Sys2Proof.Machine

theorem choices_length (xs : List Nat) (d : Nat) : (choices xs d).length = xs.length.choose d := by
  induction xs generalizing d with
  | nil => cases d <;> simp [choices]
  | cons x xs ih => cases d <;> simp [choices, ih, Nat.choose_succ_succ]

theorem length_of_mem_choices {xs : List Nat} {d : Nat} {S : List Nat} (h : S ∈ choices xs d) : S.length = d := by
  induction xs generalizing d S with
  | nil => cases d <;> simp_all [choices]
  | cons x xs ih =>
    cases d with
    | zero => simp_all [choices]
    | succ d =>
      simp only [choices, List.mem_append, List.mem_map] at h
      obtain ⟨S', h', rfl⟩ | h := h
      · simp [ih h']
      · exact ih h

/-- The choices are exactly the sublists of that length. -/
theorem mem_choices {xs : List Nat} {d : Nat} {S : List Nat} : S ∈ choices xs d ↔ S.Sublist xs ∧ S.length = d := by
  induction xs generalizing d S with
  | nil => cases d <;> simp +contextual [choices]
  | cons x xs ih =>
    cases d with
    | zero => simp +contextual [choices]
    | succ d =>
      simp only [choices, List.mem_append, List.mem_map, List.sublist_cons_iff]
      constructor
      · rintro (⟨S', h, rfl⟩ | h)
        · exact ⟨.inr ⟨S', rfl, (ih.mp h).1⟩, by simp [(ih.mp h).2]⟩
        · exact ⟨.inl (ih.mp h).1, (ih.mp h).2⟩
      · rintro ⟨h | ⟨S', rfl, h⟩, hl⟩
        · exact .inr (ih.mpr ⟨h, hl⟩)
        · exact .inl ⟨S', ih.mpr ⟨h, by simpa using hl⟩, rfl⟩

@[simp] theorem monosOfDegree_length (m d : Nat) : (monosOfDegree m d).length = m.choose d := by
  simp [monosOfDegree, choices_length]

theorem length_of_mem_monosOfDegree {m d : Nat} {S : List Nat} (h : S ∈ monosOfDegree m d) : S.length = d :=
  length_of_mem_choices h

@[simp] theorem monos_length (r m : Nat) : (monos r m).length = codeDim r m := by
  simp [monos, codeDim, List.length_flatMap]

theorem codeDim_zero (m : Nat) : codeDim 0 m = 1 := by simp [codeDim]

theorem codeDim_succ (r m : Nat) : codeDim (r + 1) m = codeDim r m + m.choose (r + 1) := by
  simp [codeDim, List.range_succ, Nat.add_assoc]

theorem one_le_codeDim (r m : Nat) : 1 ≤ codeDim r m := by
  induction r with
  | zero => simp [codeDim_zero]
  | succ r ih => rw [codeDim_succ]; omega

theorem codeDim_eq_sum (r m : Nat) : codeDim r m = ∑ i ∈ Finset.range (r + 1), m.choose i := by
  induction r with
  | zero => simp [codeDim_zero]
  | succ r ih => rw [codeDim_succ, ih, Finset.sum_range_succ _ (r + 1)]

/-- The code dimension is at most the code length (R110: K ≤ N). -/
theorem codeDim_le_codeLen {r m : Nat} (h : r ≤ m) : codeDim r m ≤ codeLen m := by
  rw [codeDim_eq_sum, codeLen, ← Nat.sum_range_choose]
  exact Finset.sum_le_sum_of_subset (Finset.range_subset_range.mpr (by omega))

theorem codeLen_pos (m : Nat) : 1 ≤ codeLen m := Nat.one_le_two_pow

theorem codeLen_le {m : Nat} (h : m ≤ 8) : codeLen m ≤ 256 :=
  Nat.pow_le_pow_right (by decide) h

@[simp] theorem stageDecisions_length (m d : Nat) (res : List Bool) : (stageDecisions m d res).length = m.choose d := by
  simp [stageDecisions]

@[simp] theorem reedDecode_length (y : List Bool) (r m : Nat) : (reedDecode y r m).length = codeDim r m := by
  have stages : ∀ d res, (decodeStages m (d + 1) res).length = codeDim d m := by
    intro d
    induction d with
    | zero => intro res; simp [decodeStages, codeDim_zero]
    | succ d ih =>
      intro res
      rw [decodeStages, List.length_append, ih, codeDim_succ, stageDecisions_length]
  exact stages r y

@[simp] theorem syndrome_length (r m : Nat) (y : Nat → Bool) : (syndrome r m y).length = syndromeLen r m := by
  simp [syndrome, syndromeLen, List.length_flatMap]

end Sys2Proof.Machine
end

