-- ==== Sys2Proof/Laws/Decode.lean ====
section
/-! SUPPORT. The bytes of a word make the word (R66). -/

namespace Sys2Proof

theorem wordOfBytes_bytesOfWord (w : Word) :
    wordOfBytes (w.extractLsb' 0 8) (w.extractLsb' 8 8) (w.extractLsb' 16 8) (w.extractLsb' 24 8) = w := by
  apply BitVec.eq_of_getLsbD_eq
  intro i hi
  simp only [wordOfBytes, BitVec.getLsbD_append, BitVec.getLsbD_extractLsb']
  by_cases h1 : i < 8
  · simp [h1]
  by_cases h2 : i < 16
  · have h3 : i - 8 < 8 := by omega
    have e : 8 + (i - 8) = i := by omega
    simp [h1, h3, e]
  by_cases h3 : i < 24
  · have h4 : ¬ i - 8 < 8 := by omega
    have h5 : i - 8 - 8 < 8 := by omega
    have e : 16 + (i - 8 - 8) = i := by omega
    simp [h1, h4, h5, e]
  · have h4 : ¬ i - 8 < 8 := by omega
    have h5 : ¬ i - 8 - 8 < 8 := by omega
    have h6 : i - 8 - 8 - 8 < 8 := by omega
    have e : 24 + (i - 8 - 8 - 8) = i := by omega
    simp [h1, h4, h5, h6, e]

/-- Decoding the bytes of a word is decoding the word (R66, R91). -/
theorem decodeBytes_bytesOfWord (w : Word) (rest : List Byte) :
    decodeBytes (bytesOfWord w ++ rest) = (decodeCW w).map (·, rest) := by
  simp [bytesOfWord, decodeBytes, wordOfBytes_bytesOfWord]

end Sys2Proof
end

