-- ==== Sys2Proof/Laws/State.lean ====
section
/-! SUPPORT. One lemma per field per update of the state: what each shared operation leaves in the field. -/

namespace Sys2Proof.Machine

/-! ### putBytes -/

@[simp] theorem State.putBytes_cfgM (s : State) (lo count : Nat) (f : Nat → Byte) : (s.putBytes lo count f).cfgM = s.cfgM := rfl
@[simp] theorem State.putBytes_cfgR (s : State) (lo count : Nat) (f : Nat → Byte) : (s.putBytes lo count f).cfgR = s.cfgR := rfl
@[simp] theorem State.putBytes_built (s : State) (lo count : Nat) (f : Nat → Byte) : (s.putBytes lo count f).built = s.built := rfl
@[simp] theorem State.putBytes_BR (s : State) (lo count : Nat) (f : Nat → Byte) : (s.putBytes lo count f).BR = s.BR := rfl
@[simp] theorem State.putBytes_BM (s : State) (lo count : Nat) (f : Nat → Byte) : (s.putBytes lo count f).BM = s.BM := rfl
@[simp] theorem State.putBytes_K (s : State) (lo count : Nat) (f : Nat → Byte) : (s.putBytes lo count f).K = s.K := rfl
@[simp] theorem State.putBytes_N (s : State) (lo count : Nat) (f : Nat → Byte) : (s.putBytes lo count f).N = s.N := rfl
@[simp] theorem State.putBytes_grows (s : State) (lo count : Nat) (f : Nat → Byte) : (s.putBytes lo count f).grows = s.grows := rfl
@[simp] theorem State.putBytes_gcols (s : State) (lo count : Nat) (f : Nat → Byte) : (s.putBytes lo count f).gcols = s.gcols := rfl
@[simp] theorem State.putBytes_pe (s : State) (lo count : Nat) (f : Nat → Byte) : (s.putBytes lo count f).pe = s.pe := rfl
@[simp] theorem State.putBytes_irows (s : State) (lo count : Nat) (f : Nat → Byte) : (s.putBytes lo count f).irows = s.irows := rfl
@[simp] theorem State.putBytes_icols (s : State) (lo count : Nat) (f : Nat → Byte) : (s.putBytes lo count f).icols = s.icols := rfl
@[simp] theorem State.putBytes_len (s : State) (lo count : Nat) (f : Nat → Byte) : (s.putBytes lo count f).len = s.len := rfl
@[simp] theorem State.putBytes_done (s : State) (lo count : Nat) (f : Nat → Byte) : (s.putBytes lo count f).done = s.done := rfl
@[simp] theorem State.putBytes_dropped (s : State) (lo count : Nat) (f : Nat → Byte) : (s.putBytes lo count f).dropped = s.dropped := rfl
@[simp] theorem State.putBytes_aborted (s : State) (lo count : Nat) (f : Nat → Byte) : (s.putBytes lo count f).aborted = s.aborted := rfl
@[simp] theorem State.putBytes_err (s : State) (lo count : Nat) (f : Nat → Byte) : (s.putBytes lo count f).err = s.err := rfl
@[simp] theorem State.putBytes_outlen (s : State) (lo count : Nat) (f : Nat → Byte) : (s.putBytes lo count f).outlen = s.outlen := rfl
@[simp] theorem State.putBytes_blocks (s : State) (lo count : Nat) (f : Nat → Byte) : (s.putBytes lo count f).blocks = s.blocks := rfl
@[simp] theorem State.putBytes_flips (s : State) (lo count : Nat) (f : Nat → Byte) : (s.putBytes lo count f).flips = s.flips := rfl
@[simp] theorem State.putBytes_ie (s : State) (lo count : Nat) (f : Nat → Byte) : (s.putBytes lo count f).ie = s.ie := rfl
@[simp] theorem State.putBytes_mem (s : State) (lo count : Nat) (f : Nat → Byte) : (s.putBytes lo count f).mem = s.mem.put lo count f := rfl
@[simp] theorem State.putBytes_lc (s : State) (lo count : Nat) (f : Nat → Byte) : (s.putBytes lo count f).lc = s.lc := rfl
@[simp] theorem State.putBytes_abortPending (s : State) (lo count : Nat) (f : Nat → Byte) : (s.putBytes lo count f).abortPending = s.abortPending := rfl
@[simp] theorem State.putBytes_env (s : State) (lo count : Nat) (f : Nat → Byte) : (s.putBytes lo count f).env = s.env := rfl

/-! ### respond -/

@[simp] theorem State.respond_cfgM (s : State) (x : Response) : (s.respond x).cfgM = s.cfgM := rfl
@[simp] theorem State.respond_cfgR (s : State) (x : Response) : (s.respond x).cfgR = s.cfgR := rfl
@[simp] theorem State.respond_built (s : State) (x : Response) : (s.respond x).built = s.built := rfl
@[simp] theorem State.respond_BR (s : State) (x : Response) : (s.respond x).BR = s.BR := rfl
@[simp] theorem State.respond_BM (s : State) (x : Response) : (s.respond x).BM = s.BM := rfl
@[simp] theorem State.respond_K (s : State) (x : Response) : (s.respond x).K = s.K := rfl
@[simp] theorem State.respond_N (s : State) (x : Response) : (s.respond x).N = s.N := rfl
@[simp] theorem State.respond_grows (s : State) (x : Response) : (s.respond x).grows = s.grows := rfl
@[simp] theorem State.respond_gcols (s : State) (x : Response) : (s.respond x).gcols = s.gcols := rfl
@[simp] theorem State.respond_pe (s : State) (x : Response) : (s.respond x).pe = s.pe := rfl
@[simp] theorem State.respond_irows (s : State) (x : Response) : (s.respond x).irows = s.irows := rfl
@[simp] theorem State.respond_icols (s : State) (x : Response) : (s.respond x).icols = s.icols := rfl
@[simp] theorem State.respond_len (s : State) (x : Response) : (s.respond x).len = s.len := rfl
@[simp] theorem State.respond_done (s : State) (x : Response) : (s.respond x).done = s.done := rfl
@[simp] theorem State.respond_dropped (s : State) (x : Response) : (s.respond x).dropped = s.dropped := rfl
@[simp] theorem State.respond_aborted (s : State) (x : Response) : (s.respond x).aborted = s.aborted := rfl
@[simp] theorem State.respond_err (s : State) (x : Response) : (s.respond x).err = s.err := rfl
@[simp] theorem State.respond_outlen (s : State) (x : Response) : (s.respond x).outlen = s.outlen := rfl
@[simp] theorem State.respond_blocks (s : State) (x : Response) : (s.respond x).blocks = s.blocks := rfl
@[simp] theorem State.respond_flips (s : State) (x : Response) : (s.respond x).flips = s.flips := rfl
@[simp] theorem State.respond_ie (s : State) (x : Response) : (s.respond x).ie = s.ie := rfl
@[simp] theorem State.respond_mem (s : State) (x : Response) : (s.respond x).mem = s.mem := rfl
@[simp] theorem State.respond_lc (s : State) (x : Response) : (s.respond x).lc = s.lc := rfl
@[simp] theorem State.respond_abortPending (s : State) (x : Response) : (s.respond x).abortPending = s.abortPending := rfl
@[simp] theorem State.respond_env (s : State) (x : Response) : (s.respond x).env = { s.env with response := x } := rfl

/-! ### withInputs -/

@[simp] theorem State.withInputs_cfgM (s : State) (es : List Input) : (s.withInputs es).cfgM = s.cfgM := rfl
@[simp] theorem State.withInputs_cfgR (s : State) (es : List Input) : (s.withInputs es).cfgR = s.cfgR := rfl
@[simp] theorem State.withInputs_built (s : State) (es : List Input) : (s.withInputs es).built = s.built := rfl
@[simp] theorem State.withInputs_BR (s : State) (es : List Input) : (s.withInputs es).BR = s.BR := rfl
@[simp] theorem State.withInputs_BM (s : State) (es : List Input) : (s.withInputs es).BM = s.BM := rfl
@[simp] theorem State.withInputs_K (s : State) (es : List Input) : (s.withInputs es).K = s.K := rfl
@[simp] theorem State.withInputs_N (s : State) (es : List Input) : (s.withInputs es).N = s.N := rfl
@[simp] theorem State.withInputs_grows (s : State) (es : List Input) : (s.withInputs es).grows = s.grows := rfl
@[simp] theorem State.withInputs_gcols (s : State) (es : List Input) : (s.withInputs es).gcols = s.gcols := rfl
@[simp] theorem State.withInputs_pe (s : State) (es : List Input) : (s.withInputs es).pe = s.pe := rfl
@[simp] theorem State.withInputs_irows (s : State) (es : List Input) : (s.withInputs es).irows = s.irows := rfl
@[simp] theorem State.withInputs_icols (s : State) (es : List Input) : (s.withInputs es).icols = s.icols := rfl
@[simp] theorem State.withInputs_len (s : State) (es : List Input) : (s.withInputs es).len = s.len := rfl
@[simp] theorem State.withInputs_done (s : State) (es : List Input) : (s.withInputs es).done = s.done := rfl
@[simp] theorem State.withInputs_dropped (s : State) (es : List Input) : (s.withInputs es).dropped = s.dropped := rfl
@[simp] theorem State.withInputs_aborted (s : State) (es : List Input) : (s.withInputs es).aborted = s.aborted := rfl
@[simp] theorem State.withInputs_err (s : State) (es : List Input) : (s.withInputs es).err = s.err := rfl
@[simp] theorem State.withInputs_outlen (s : State) (es : List Input) : (s.withInputs es).outlen = s.outlen := rfl
@[simp] theorem State.withInputs_blocks (s : State) (es : List Input) : (s.withInputs es).blocks = s.blocks := rfl
@[simp] theorem State.withInputs_flips (s : State) (es : List Input) : (s.withInputs es).flips = s.flips := rfl
@[simp] theorem State.withInputs_ie (s : State) (es : List Input) : (s.withInputs es).ie = s.ie := rfl
@[simp] theorem State.withInputs_mem (s : State) (es : List Input) : (s.withInputs es).mem = s.mem := rfl
@[simp] theorem State.withInputs_lc (s : State) (es : List Input) : (s.withInputs es).lc = s.lc := rfl
@[simp] theorem State.withInputs_abortPending (s : State) (es : List Input) : (s.withInputs es).abortPending = s.abortPending := rfl
@[simp] theorem State.withInputs_env (s : State) (es : List Input) : (s.withInputs es).env = { s.env with inputs := es } := rfl

/-! ### drop -/

@[simp] theorem State.drop_cfgM (s : State) : (s.drop).cfgM = s.cfgM := rfl
@[simp] theorem State.drop_cfgR (s : State) : (s.drop).cfgR = s.cfgR := rfl
@[simp] theorem State.drop_built (s : State) : (s.drop).built = s.built := rfl
@[simp] theorem State.drop_BR (s : State) : (s.drop).BR = s.BR := rfl
@[simp] theorem State.drop_BM (s : State) : (s.drop).BM = s.BM := rfl
@[simp] theorem State.drop_K (s : State) : (s.drop).K = s.K := rfl
@[simp] theorem State.drop_N (s : State) : (s.drop).N = s.N := rfl
@[simp] theorem State.drop_grows (s : State) : (s.drop).grows = s.grows := rfl
@[simp] theorem State.drop_gcols (s : State) : (s.drop).gcols = s.gcols := rfl
@[simp] theorem State.drop_pe (s : State) : (s.drop).pe = s.pe := rfl
@[simp] theorem State.drop_irows (s : State) : (s.drop).irows = s.irows := rfl
@[simp] theorem State.drop_icols (s : State) : (s.drop).icols = s.icols := rfl
@[simp] theorem State.drop_len (s : State) : (s.drop).len = s.len := rfl
@[simp] theorem State.drop_done (s : State) : (s.drop).done = s.done := rfl
@[simp] theorem State.drop_dropped (s : State) : (s.drop).dropped = true := rfl
@[simp] theorem State.drop_aborted (s : State) : (s.drop).aborted = s.aborted := rfl
@[simp] theorem State.drop_err (s : State) : (s.drop).err = s.err := rfl
@[simp] theorem State.drop_outlen (s : State) : (s.drop).outlen = s.outlen := rfl
@[simp] theorem State.drop_blocks (s : State) : (s.drop).blocks = s.blocks := rfl
@[simp] theorem State.drop_flips (s : State) : (s.drop).flips = s.flips := rfl
@[simp] theorem State.drop_ie (s : State) : (s.drop).ie = s.ie := rfl
@[simp] theorem State.drop_mem (s : State) : (s.drop).mem = s.mem := rfl
@[simp] theorem State.drop_lc (s : State) : (s.drop).lc = s.lc := rfl
@[simp] theorem State.drop_abortPending (s : State) : (s.drop).abortPending = s.abortPending := rfl
@[simp] theorem State.drop_env (s : State) : (s.drop).env = s.env := rfl

/-! ### beginIssue -/

@[simp] theorem State.beginIssue_cfgM (s : State) : (s.beginIssue).cfgM = s.cfgM := rfl
@[simp] theorem State.beginIssue_cfgR (s : State) : (s.beginIssue).cfgR = s.cfgR := rfl
@[simp] theorem State.beginIssue_built (s : State) : (s.beginIssue).built = s.built := rfl
@[simp] theorem State.beginIssue_BR (s : State) : (s.beginIssue).BR = s.BR := rfl
@[simp] theorem State.beginIssue_BM (s : State) : (s.beginIssue).BM = s.BM := rfl
@[simp] theorem State.beginIssue_K (s : State) : (s.beginIssue).K = s.K := rfl
@[simp] theorem State.beginIssue_N (s : State) : (s.beginIssue).N = s.N := rfl
@[simp] theorem State.beginIssue_grows (s : State) : (s.beginIssue).grows = s.grows := rfl
@[simp] theorem State.beginIssue_gcols (s : State) : (s.beginIssue).gcols = s.gcols := rfl
@[simp] theorem State.beginIssue_pe (s : State) : (s.beginIssue).pe = s.pe := rfl
@[simp] theorem State.beginIssue_irows (s : State) : (s.beginIssue).irows = s.irows := rfl
@[simp] theorem State.beginIssue_icols (s : State) : (s.beginIssue).icols = s.icols := rfl
@[simp] theorem State.beginIssue_len (s : State) : (s.beginIssue).len = s.len := rfl
@[simp] theorem State.beginIssue_done (s : State) : (s.beginIssue).done = s.done := rfl
@[simp] theorem State.beginIssue_dropped (s : State) : (s.beginIssue).dropped = s.dropped := rfl
@[simp] theorem State.beginIssue_aborted (s : State) : (s.beginIssue).aborted = false := rfl
@[simp] theorem State.beginIssue_err (s : State) : (s.beginIssue).err = s.err := rfl
@[simp] theorem State.beginIssue_outlen (s : State) : (s.beginIssue).outlen = 0#32 := rfl
@[simp] theorem State.beginIssue_blocks (s : State) : (s.beginIssue).blocks = 0#32 := rfl
@[simp] theorem State.beginIssue_flips (s : State) : (s.beginIssue).flips = s.flips := rfl
@[simp] theorem State.beginIssue_ie (s : State) : (s.beginIssue).ie = s.ie := rfl
@[simp] theorem State.beginIssue_mem (s : State) : (s.beginIssue).mem = s.mem := rfl
@[simp] theorem State.beginIssue_lc (s : State) : (s.beginIssue).lc = s.lc := rfl
@[simp] theorem State.beginIssue_abortPending (s : State) : (s.beginIssue).abortPending = s.abortPending := rfl
@[simp] theorem State.beginIssue_env (s : State) : (s.beginIssue).env = s.env := rfl

/-! ### fail -/

@[simp] theorem State.fail_cfgM (s : State) (code : ErrCode) : (s.fail code).cfgM = s.cfgM := rfl
@[simp] theorem State.fail_cfgR (s : State) (code : ErrCode) : (s.fail code).cfgR = s.cfgR := rfl
@[simp] theorem State.fail_built (s : State) (code : ErrCode) : (s.fail code).built = s.built := rfl
@[simp] theorem State.fail_BR (s : State) (code : ErrCode) : (s.fail code).BR = s.BR := rfl
@[simp] theorem State.fail_BM (s : State) (code : ErrCode) : (s.fail code).BM = s.BM := rfl
@[simp] theorem State.fail_K (s : State) (code : ErrCode) : (s.fail code).K = s.K := rfl
@[simp] theorem State.fail_N (s : State) (code : ErrCode) : (s.fail code).N = s.N := rfl
@[simp] theorem State.fail_grows (s : State) (code : ErrCode) : (s.fail code).grows = s.grows := rfl
@[simp] theorem State.fail_gcols (s : State) (code : ErrCode) : (s.fail code).gcols = s.gcols := rfl
@[simp] theorem State.fail_pe (s : State) (code : ErrCode) : (s.fail code).pe = s.pe := rfl
@[simp] theorem State.fail_irows (s : State) (code : ErrCode) : (s.fail code).irows = s.irows := rfl
@[simp] theorem State.fail_icols (s : State) (code : ErrCode) : (s.fail code).icols = s.icols := rfl
@[simp] theorem State.fail_len (s : State) (code : ErrCode) : (s.fail code).len = s.len := rfl
@[simp] theorem State.fail_done (s : State) (code : ErrCode) : (s.fail code).done = true := rfl
@[simp] theorem State.fail_dropped (s : State) (code : ErrCode) : (s.fail code).dropped = s.dropped := rfl
@[simp] theorem State.fail_aborted (s : State) (code : ErrCode) : (s.fail code).aborted = s.aborted := rfl
@[simp] theorem State.fail_err (s : State) (code : ErrCode) : (s.fail code).err = code := rfl
@[simp] theorem State.fail_outlen (s : State) (code : ErrCode) : (s.fail code).outlen = s.outlen := rfl
@[simp] theorem State.fail_blocks (s : State) (code : ErrCode) : (s.fail code).blocks = s.blocks := rfl
@[simp] theorem State.fail_flips (s : State) (code : ErrCode) : (s.fail code).flips = s.flips := rfl
@[simp] theorem State.fail_ie (s : State) (code : ErrCode) : (s.fail code).ie = s.ie := rfl
@[simp] theorem State.fail_mem (s : State) (code : ErrCode) : (s.fail code).mem = s.mem := rfl
@[simp] theorem State.fail_lc (s : State) (code : ErrCode) : (s.fail code).lc = s.lc := rfl
@[simp] theorem State.fail_abortPending (s : State) (code : ErrCode) : (s.fail code).abortPending = s.abortPending := rfl
@[simp] theorem State.fail_env (s : State) (code : ErrCode) : (s.fail code).env = s.env := rfl

/-! ### complete -/

@[simp] theorem State.complete_cfgM (s : State) (b : Bool) : (s.complete b).cfgM = s.cfgM := rfl
@[simp] theorem State.complete_cfgR (s : State) (b : Bool) : (s.complete b).cfgR = s.cfgR := rfl
@[simp] theorem State.complete_built (s : State) (b : Bool) : (s.complete b).built = s.built := rfl
@[simp] theorem State.complete_BR (s : State) (b : Bool) : (s.complete b).BR = s.BR := rfl
@[simp] theorem State.complete_BM (s : State) (b : Bool) : (s.complete b).BM = s.BM := rfl
@[simp] theorem State.complete_K (s : State) (b : Bool) : (s.complete b).K = s.K := rfl
@[simp] theorem State.complete_N (s : State) (b : Bool) : (s.complete b).N = s.N := rfl
@[simp] theorem State.complete_grows (s : State) (b : Bool) : (s.complete b).grows = s.grows := rfl
@[simp] theorem State.complete_gcols (s : State) (b : Bool) : (s.complete b).gcols = s.gcols := rfl
@[simp] theorem State.complete_pe (s : State) (b : Bool) : (s.complete b).pe = s.pe := rfl
@[simp] theorem State.complete_irows (s : State) (b : Bool) : (s.complete b).irows = s.irows := rfl
@[simp] theorem State.complete_icols (s : State) (b : Bool) : (s.complete b).icols = s.icols := rfl
@[simp] theorem State.complete_len (s : State) (b : Bool) : (s.complete b).len = s.len := rfl
@[simp] theorem State.complete_done (s : State) (b : Bool) : (s.complete b).done = true := rfl
@[simp] theorem State.complete_dropped (s : State) (b : Bool) : (s.complete b).dropped = s.dropped := rfl
@[simp] theorem State.complete_aborted (s : State) (b : Bool) : (s.complete b).aborted = b := rfl
@[simp] theorem State.complete_err (s : State) (b : Bool) : (s.complete b).err = s.err := rfl
@[simp] theorem State.complete_outlen (s : State) (b : Bool) : (s.complete b).outlen = s.outlen := rfl
@[simp] theorem State.complete_blocks (s : State) (b : Bool) : (s.complete b).blocks = s.blocks := rfl
@[simp] theorem State.complete_flips (s : State) (b : Bool) : (s.complete b).flips = s.flips := rfl
@[simp] theorem State.complete_ie (s : State) (b : Bool) : (s.complete b).ie = s.ie := rfl
@[simp] theorem State.complete_mem (s : State) (b : Bool) : (s.complete b).mem = s.mem := rfl
@[simp] theorem State.complete_lc (s : State) (b : Bool) : (s.complete b).lc = none := rfl
@[simp] theorem State.complete_abortPending (s : State) (b : Bool) : (s.complete b).abortPending = false := rfl
@[simp] theorem State.complete_env (s : State) (b : Bool) : (s.complete b).env = s.env := rfl

/-! ### writeStatus -/

@[simp] theorem State.writeStatus_cfgM (s : State) (v : Word) : (s.writeStatus v).cfgM = s.cfgM := rfl
@[simp] theorem State.writeStatus_cfgR (s : State) (v : Word) : (s.writeStatus v).cfgR = s.cfgR := rfl
@[simp] theorem State.writeStatus_built (s : State) (v : Word) : (s.writeStatus v).built = s.built := rfl
@[simp] theorem State.writeStatus_BR (s : State) (v : Word) : (s.writeStatus v).BR = s.BR := rfl
@[simp] theorem State.writeStatus_BM (s : State) (v : Word) : (s.writeStatus v).BM = s.BM := rfl
@[simp] theorem State.writeStatus_K (s : State) (v : Word) : (s.writeStatus v).K = s.K := rfl
@[simp] theorem State.writeStatus_N (s : State) (v : Word) : (s.writeStatus v).N = s.N := rfl
@[simp] theorem State.writeStatus_grows (s : State) (v : Word) : (s.writeStatus v).grows = s.grows := rfl
@[simp] theorem State.writeStatus_gcols (s : State) (v : Word) : (s.writeStatus v).gcols = s.gcols := rfl
@[simp] theorem State.writeStatus_pe (s : State) (v : Word) : (s.writeStatus v).pe = s.pe := rfl
@[simp] theorem State.writeStatus_irows (s : State) (v : Word) : (s.writeStatus v).irows = s.irows := rfl
@[simp] theorem State.writeStatus_icols (s : State) (v : Word) : (s.writeStatus v).icols = s.icols := rfl
@[simp] theorem State.writeStatus_len (s : State) (v : Word) : (s.writeStatus v).len = s.len := rfl
@[simp] theorem State.writeStatus_done (s : State) (v : Word) : (s.writeStatus v).done = (s.done && !v.getLsbD 2) := rfl
@[simp] theorem State.writeStatus_dropped (s : State) (v : Word) : (s.writeStatus v).dropped = (s.dropped && !v.getLsbD 3) := rfl
@[simp] theorem State.writeStatus_aborted (s : State) (v : Word) : (s.writeStatus v).aborted = s.aborted := rfl
@[simp] theorem State.writeStatus_err (s : State) (v : Word) : (s.writeStatus v).err = s.err := rfl
@[simp] theorem State.writeStatus_outlen (s : State) (v : Word) : (s.writeStatus v).outlen = s.outlen := rfl
@[simp] theorem State.writeStatus_blocks (s : State) (v : Word) : (s.writeStatus v).blocks = s.blocks := rfl
@[simp] theorem State.writeStatus_flips (s : State) (v : Word) : (s.writeStatus v).flips = s.flips := rfl
@[simp] theorem State.writeStatus_ie (s : State) (v : Word) : (s.writeStatus v).ie = s.ie := rfl
@[simp] theorem State.writeStatus_mem (s : State) (v : Word) : (s.writeStatus v).mem = s.mem := rfl
@[simp] theorem State.writeStatus_lc (s : State) (v : Word) : (s.writeStatus v).lc = s.lc := rfl
@[simp] theorem State.writeStatus_abortPending (s : State) (v : Word) : (s.writeStatus v).abortPending = s.abortPending := rfl
@[simp] theorem State.writeStatus_env (s : State) (v : Word) : (s.writeStatus v).env = s.env := rfl

/-! ### writeAbort -/

@[simp] theorem State.writeAbort_cfgM (s : State) (v : Word) : (s.writeAbort v).cfgM = s.cfgM := rfl
@[simp] theorem State.writeAbort_cfgR (s : State) (v : Word) : (s.writeAbort v).cfgR = s.cfgR := rfl
@[simp] theorem State.writeAbort_built (s : State) (v : Word) : (s.writeAbort v).built = s.built := rfl
@[simp] theorem State.writeAbort_BR (s : State) (v : Word) : (s.writeAbort v).BR = s.BR := rfl
@[simp] theorem State.writeAbort_BM (s : State) (v : Word) : (s.writeAbort v).BM = s.BM := rfl
@[simp] theorem State.writeAbort_K (s : State) (v : Word) : (s.writeAbort v).K = s.K := rfl
@[simp] theorem State.writeAbort_N (s : State) (v : Word) : (s.writeAbort v).N = s.N := rfl
@[simp] theorem State.writeAbort_grows (s : State) (v : Word) : (s.writeAbort v).grows = s.grows := rfl
@[simp] theorem State.writeAbort_gcols (s : State) (v : Word) : (s.writeAbort v).gcols = s.gcols := rfl
@[simp] theorem State.writeAbort_pe (s : State) (v : Word) : (s.writeAbort v).pe = s.pe := rfl
@[simp] theorem State.writeAbort_irows (s : State) (v : Word) : (s.writeAbort v).irows = s.irows := rfl
@[simp] theorem State.writeAbort_icols (s : State) (v : Word) : (s.writeAbort v).icols = s.icols := rfl
@[simp] theorem State.writeAbort_len (s : State) (v : Word) : (s.writeAbort v).len = s.len := rfl
@[simp] theorem State.writeAbort_done (s : State) (v : Word) : (s.writeAbort v).done = s.done := rfl
@[simp] theorem State.writeAbort_dropped (s : State) (v : Word) : (s.writeAbort v).dropped = s.dropped := rfl
@[simp] theorem State.writeAbort_aborted (s : State) (v : Word) : (s.writeAbort v).aborted = s.aborted := rfl
@[simp] theorem State.writeAbort_err (s : State) (v : Word) : (s.writeAbort v).err = s.err := rfl
@[simp] theorem State.writeAbort_outlen (s : State) (v : Word) : (s.writeAbort v).outlen = s.outlen := rfl
@[simp] theorem State.writeAbort_blocks (s : State) (v : Word) : (s.writeAbort v).blocks = s.blocks := rfl
@[simp] theorem State.writeAbort_flips (s : State) (v : Word) : (s.writeAbort v).flips = s.flips := rfl
@[simp] theorem State.writeAbort_ie (s : State) (v : Word) : (s.writeAbort v).ie = s.ie := rfl
@[simp] theorem State.writeAbort_mem (s : State) (v : Word) : (s.writeAbort v).mem = s.mem := rfl
@[simp] theorem State.writeAbort_lc (s : State) (v : Word) : (s.writeAbort v).lc = s.lc := rfl
@[simp] theorem State.writeAbort_abortPending (s : State) (v : Word) : (s.writeAbort v).abortPending = (s.abortPending || (v.getLsbD 0 && s.busy)) := rfl
@[simp] theorem State.writeAbort_env (s : State) (v : Word) : (s.writeAbort v).env = s.env := rfl

/-! ### afterDraw -/

@[simp] theorem State.afterDraw_cfgM (s : State) : (s.afterDraw).cfgM = s.cfgM := rfl
@[simp] theorem State.afterDraw_cfgR (s : State) : (s.afterDraw).cfgR = s.cfgR := rfl
@[simp] theorem State.afterDraw_built (s : State) : (s.afterDraw).built = s.built := rfl
@[simp] theorem State.afterDraw_BR (s : State) : (s.afterDraw).BR = s.BR := rfl
@[simp] theorem State.afterDraw_BM (s : State) : (s.afterDraw).BM = s.BM := rfl
@[simp] theorem State.afterDraw_K (s : State) : (s.afterDraw).K = s.K := rfl
@[simp] theorem State.afterDraw_N (s : State) : (s.afterDraw).N = s.N := rfl
@[simp] theorem State.afterDraw_grows (s : State) : (s.afterDraw).grows = s.grows := rfl
@[simp] theorem State.afterDraw_gcols (s : State) : (s.afterDraw).gcols = s.gcols := rfl
@[simp] theorem State.afterDraw_pe (s : State) : (s.afterDraw).pe = s.pe := rfl
@[simp] theorem State.afterDraw_irows (s : State) : (s.afterDraw).irows = s.irows := rfl
@[simp] theorem State.afterDraw_icols (s : State) : (s.afterDraw).icols = s.icols := rfl
@[simp] theorem State.afterDraw_len (s : State) : (s.afterDraw).len = s.len := rfl
@[simp] theorem State.afterDraw_done (s : State) : (s.afterDraw).done = s.done := rfl
@[simp] theorem State.afterDraw_dropped (s : State) : (s.afterDraw).dropped = s.dropped := rfl
@[simp] theorem State.afterDraw_aborted (s : State) : (s.afterDraw).aborted = s.aborted := rfl
@[simp] theorem State.afterDraw_err (s : State) : (s.afterDraw).err = s.err := rfl
@[simp] theorem State.afterDraw_outlen (s : State) : (s.afterDraw).outlen = s.outlen := rfl
@[simp] theorem State.afterDraw_blocks (s : State) : (s.afterDraw).blocks = s.blocks := rfl
@[simp] theorem State.afterDraw_flips (s : State) : (s.afterDraw).flips = s.flips := rfl
@[simp] theorem State.afterDraw_ie (s : State) : (s.afterDraw).ie = s.ie := rfl
@[simp] theorem State.afterDraw_mem (s : State) : (s.afterDraw).mem = s.mem := rfl
@[simp] theorem State.afterDraw_lc (s : State) : (s.afterDraw).lc = s.lc := rfl
@[simp] theorem State.afterDraw_abortPending (s : State) : (s.afterDraw).abortPending = s.abortPending := rfl
@[simp] theorem State.afterDraw_env (s : State) : (s.afterDraw).env = { s.env with port := s.env.port.tail, drawn := s.env.drawn + 1 } := rfl

/-! ### countBlock -/

@[simp] theorem State.countBlock_cfgM (s : State) (c : Latched) : (s.countBlock c).cfgM = s.cfgM := rfl
@[simp] theorem State.countBlock_cfgR (s : State) (c : Latched) : (s.countBlock c).cfgR = s.cfgR := rfl
@[simp] theorem State.countBlock_built (s : State) (c : Latched) : (s.countBlock c).built = s.built := rfl
@[simp] theorem State.countBlock_BR (s : State) (c : Latched) : (s.countBlock c).BR = s.BR := rfl
@[simp] theorem State.countBlock_BM (s : State) (c : Latched) : (s.countBlock c).BM = s.BM := rfl
@[simp] theorem State.countBlock_K (s : State) (c : Latched) : (s.countBlock c).K = s.K := rfl
@[simp] theorem State.countBlock_N (s : State) (c : Latched) : (s.countBlock c).N = s.N := rfl
@[simp] theorem State.countBlock_grows (s : State) (c : Latched) : (s.countBlock c).grows = s.grows := rfl
@[simp] theorem State.countBlock_gcols (s : State) (c : Latched) : (s.countBlock c).gcols = s.gcols := rfl
@[simp] theorem State.countBlock_pe (s : State) (c : Latched) : (s.countBlock c).pe = s.pe := rfl
@[simp] theorem State.countBlock_irows (s : State) (c : Latched) : (s.countBlock c).irows = s.irows := rfl
@[simp] theorem State.countBlock_icols (s : State) (c : Latched) : (s.countBlock c).icols = s.icols := rfl
@[simp] theorem State.countBlock_len (s : State) (c : Latched) : (s.countBlock c).len = s.len := rfl
@[simp] theorem State.countBlock_done (s : State) (c : Latched) : (s.countBlock c).done = s.done := rfl
@[simp] theorem State.countBlock_dropped (s : State) (c : Latched) : (s.countBlock c).dropped = s.dropped := rfl
@[simp] theorem State.countBlock_aborted (s : State) (c : Latched) : (s.countBlock c).aborted = s.aborted := rfl
@[simp] theorem State.countBlock_err (s : State) (c : Latched) : (s.countBlock c).err = s.err := rfl
@[simp] theorem State.countBlock_outlen (s : State) (c : Latched) : (s.countBlock c).outlen = s.outlen + BitVec.ofNat 32 c.OB := rfl
@[simp] theorem State.countBlock_blocks (s : State) (c : Latched) : (s.countBlock c).blocks = s.blocks + 1#32 := rfl
@[simp] theorem State.countBlock_flips (s : State) (c : Latched) : (s.countBlock c).flips = s.flips := rfl
@[simp] theorem State.countBlock_ie (s : State) (c : Latched) : (s.countBlock c).ie = s.ie := rfl
@[simp] theorem State.countBlock_mem (s : State) (c : Latched) : (s.countBlock c).mem = s.mem := rfl
@[simp] theorem State.countBlock_lc (s : State) (c : Latched) : (s.countBlock c).lc = s.lc := rfl
@[simp] theorem State.countBlock_abortPending (s : State) (c : Latched) : (s.countBlock c).abortPending = s.abortPending := rfl
@[simp] theorem State.countBlock_env (s : State) (c : Latched) : (s.countBlock c).env = s.env := rfl

/-! ### The blocks of memory are writes of bytes -/

@[simp] theorem State.setBufBits_cfgM (s : State) (b : Buf) (off len : Nat) (f : Nat → Bool) : (s.setBufBits b off len f).cfgM = s.cfgM := rfl
@[simp] theorem State.setBufBits_cfgR (s : State) (b : Buf) (off len : Nat) (f : Nat → Bool) : (s.setBufBits b off len f).cfgR = s.cfgR := rfl
@[simp] theorem State.setBufBits_built (s : State) (b : Buf) (off len : Nat) (f : Nat → Bool) : (s.setBufBits b off len f).built = s.built := rfl
@[simp] theorem State.setBufBits_BR (s : State) (b : Buf) (off len : Nat) (f : Nat → Bool) : (s.setBufBits b off len f).BR = s.BR := rfl
@[simp] theorem State.setBufBits_BM (s : State) (b : Buf) (off len : Nat) (f : Nat → Bool) : (s.setBufBits b off len f).BM = s.BM := rfl
@[simp] theorem State.setBufBits_K (s : State) (b : Buf) (off len : Nat) (f : Nat → Bool) : (s.setBufBits b off len f).K = s.K := rfl
@[simp] theorem State.setBufBits_N (s : State) (b : Buf) (off len : Nat) (f : Nat → Bool) : (s.setBufBits b off len f).N = s.N := rfl
@[simp] theorem State.setBufBits_grows (s : State) (b : Buf) (off len : Nat) (f : Nat → Bool) : (s.setBufBits b off len f).grows = s.grows := rfl
@[simp] theorem State.setBufBits_gcols (s : State) (b : Buf) (off len : Nat) (f : Nat → Bool) : (s.setBufBits b off len f).gcols = s.gcols := rfl
@[simp] theorem State.setBufBits_pe (s : State) (b : Buf) (off len : Nat) (f : Nat → Bool) : (s.setBufBits b off len f).pe = s.pe := rfl
@[simp] theorem State.setBufBits_irows (s : State) (b : Buf) (off len : Nat) (f : Nat → Bool) : (s.setBufBits b off len f).irows = s.irows := rfl
@[simp] theorem State.setBufBits_icols (s : State) (b : Buf) (off len : Nat) (f : Nat → Bool) : (s.setBufBits b off len f).icols = s.icols := rfl
@[simp] theorem State.setBufBits_len (s : State) (b : Buf) (off len : Nat) (f : Nat → Bool) : (s.setBufBits b off len f).len = s.len := rfl
@[simp] theorem State.setBufBits_done (s : State) (b : Buf) (off len : Nat) (f : Nat → Bool) : (s.setBufBits b off len f).done = s.done := rfl
@[simp] theorem State.setBufBits_dropped (s : State) (b : Buf) (off len : Nat) (f : Nat → Bool) : (s.setBufBits b off len f).dropped = s.dropped := rfl
@[simp] theorem State.setBufBits_aborted (s : State) (b : Buf) (off len : Nat) (f : Nat → Bool) : (s.setBufBits b off len f).aborted = s.aborted := rfl
@[simp] theorem State.setBufBits_err (s : State) (b : Buf) (off len : Nat) (f : Nat → Bool) : (s.setBufBits b off len f).err = s.err := rfl
@[simp] theorem State.setBufBits_outlen (s : State) (b : Buf) (off len : Nat) (f : Nat → Bool) : (s.setBufBits b off len f).outlen = s.outlen := rfl
@[simp] theorem State.setBufBits_blocks (s : State) (b : Buf) (off len : Nat) (f : Nat → Bool) : (s.setBufBits b off len f).blocks = s.blocks := rfl
@[simp] theorem State.setBufBits_flips (s : State) (b : Buf) (off len : Nat) (f : Nat → Bool) : (s.setBufBits b off len f).flips = s.flips := rfl
@[simp] theorem State.setBufBits_ie (s : State) (b : Buf) (off len : Nat) (f : Nat → Bool) : (s.setBufBits b off len f).ie = s.ie := rfl
@[simp] theorem State.setBufBits_lc (s : State) (b : Buf) (off len : Nat) (f : Nat → Bool) : (s.setBufBits b off len f).lc = s.lc := rfl
@[simp] theorem State.setBufBits_abortPending (s : State) (b : Buf) (off len : Nat) (f : Nat → Bool) : (s.setBufBits b off len f).abortPending = s.abortPending := rfl
@[simp] theorem State.setBufBits_env (s : State) (b : Buf) (off len : Nat) (f : Nat → Bool) : (s.setBufBits b off len f).env = s.env := rfl

@[simp] theorem State.setGram_cfgM (s : State) (g : Nat → Nat → Bool) : (s.setGram g).cfgM = s.cfgM := rfl
@[simp] theorem State.setGram_cfgR (s : State) (g : Nat → Nat → Bool) : (s.setGram g).cfgR = s.cfgR := rfl
@[simp] theorem State.setGram_built (s : State) (g : Nat → Nat → Bool) : (s.setGram g).built = s.built := rfl
@[simp] theorem State.setGram_BR (s : State) (g : Nat → Nat → Bool) : (s.setGram g).BR = s.BR := rfl
@[simp] theorem State.setGram_BM (s : State) (g : Nat → Nat → Bool) : (s.setGram g).BM = s.BM := rfl
@[simp] theorem State.setGram_K (s : State) (g : Nat → Nat → Bool) : (s.setGram g).K = s.K := rfl
@[simp] theorem State.setGram_N (s : State) (g : Nat → Nat → Bool) : (s.setGram g).N = s.N := rfl
@[simp] theorem State.setGram_grows (s : State) (g : Nat → Nat → Bool) : (s.setGram g).grows = s.grows := rfl
@[simp] theorem State.setGram_gcols (s : State) (g : Nat → Nat → Bool) : (s.setGram g).gcols = s.gcols := rfl
@[simp] theorem State.setGram_pe (s : State) (g : Nat → Nat → Bool) : (s.setGram g).pe = s.pe := rfl
@[simp] theorem State.setGram_irows (s : State) (g : Nat → Nat → Bool) : (s.setGram g).irows = s.irows := rfl
@[simp] theorem State.setGram_icols (s : State) (g : Nat → Nat → Bool) : (s.setGram g).icols = s.icols := rfl
@[simp] theorem State.setGram_len (s : State) (g : Nat → Nat → Bool) : (s.setGram g).len = s.len := rfl
@[simp] theorem State.setGram_done (s : State) (g : Nat → Nat → Bool) : (s.setGram g).done = s.done := rfl
@[simp] theorem State.setGram_dropped (s : State) (g : Nat → Nat → Bool) : (s.setGram g).dropped = s.dropped := rfl
@[simp] theorem State.setGram_aborted (s : State) (g : Nat → Nat → Bool) : (s.setGram g).aborted = s.aborted := rfl
@[simp] theorem State.setGram_err (s : State) (g : Nat → Nat → Bool) : (s.setGram g).err = s.err := rfl
@[simp] theorem State.setGram_outlen (s : State) (g : Nat → Nat → Bool) : (s.setGram g).outlen = s.outlen := rfl
@[simp] theorem State.setGram_blocks (s : State) (g : Nat → Nat → Bool) : (s.setGram g).blocks = s.blocks := rfl
@[simp] theorem State.setGram_flips (s : State) (g : Nat → Nat → Bool) : (s.setGram g).flips = s.flips := rfl
@[simp] theorem State.setGram_ie (s : State) (g : Nat → Nat → Bool) : (s.setGram g).ie = s.ie := rfl
@[simp] theorem State.setGram_lc (s : State) (g : Nat → Nat → Bool) : (s.setGram g).lc = s.lc := rfl
@[simp] theorem State.setGram_abortPending (s : State) (g : Nat → Nat → Bool) : (s.setGram g).abortPending = s.abortPending := rfl
@[simp] theorem State.setGram_env (s : State) (g : Nat → Nat → Bool) : (s.setGram g).env = s.env := rfl

@[simp] theorem State.putBlock_cfgM (s : State) (c : Latched) (t : Nat) (f : Nat → Bool) : (s.putBlock c t f).cfgM = s.cfgM := rfl
@[simp] theorem State.putBlock_cfgR (s : State) (c : Latched) (t : Nat) (f : Nat → Bool) : (s.putBlock c t f).cfgR = s.cfgR := rfl
@[simp] theorem State.putBlock_built (s : State) (c : Latched) (t : Nat) (f : Nat → Bool) : (s.putBlock c t f).built = s.built := rfl
@[simp] theorem State.putBlock_BR (s : State) (c : Latched) (t : Nat) (f : Nat → Bool) : (s.putBlock c t f).BR = s.BR := rfl
@[simp] theorem State.putBlock_BM (s : State) (c : Latched) (t : Nat) (f : Nat → Bool) : (s.putBlock c t f).BM = s.BM := rfl
@[simp] theorem State.putBlock_K (s : State) (c : Latched) (t : Nat) (f : Nat → Bool) : (s.putBlock c t f).K = s.K := rfl
@[simp] theorem State.putBlock_N (s : State) (c : Latched) (t : Nat) (f : Nat → Bool) : (s.putBlock c t f).N = s.N := rfl
@[simp] theorem State.putBlock_grows (s : State) (c : Latched) (t : Nat) (f : Nat → Bool) : (s.putBlock c t f).grows = s.grows := rfl
@[simp] theorem State.putBlock_gcols (s : State) (c : Latched) (t : Nat) (f : Nat → Bool) : (s.putBlock c t f).gcols = s.gcols := rfl
@[simp] theorem State.putBlock_pe (s : State) (c : Latched) (t : Nat) (f : Nat → Bool) : (s.putBlock c t f).pe = s.pe := rfl
@[simp] theorem State.putBlock_irows (s : State) (c : Latched) (t : Nat) (f : Nat → Bool) : (s.putBlock c t f).irows = s.irows := rfl
@[simp] theorem State.putBlock_icols (s : State) (c : Latched) (t : Nat) (f : Nat → Bool) : (s.putBlock c t f).icols = s.icols := rfl
@[simp] theorem State.putBlock_len (s : State) (c : Latched) (t : Nat) (f : Nat → Bool) : (s.putBlock c t f).len = s.len := rfl
@[simp] theorem State.putBlock_done (s : State) (c : Latched) (t : Nat) (f : Nat → Bool) : (s.putBlock c t f).done = s.done := rfl
@[simp] theorem State.putBlock_dropped (s : State) (c : Latched) (t : Nat) (f : Nat → Bool) : (s.putBlock c t f).dropped = s.dropped := rfl
@[simp] theorem State.putBlock_aborted (s : State) (c : Latched) (t : Nat) (f : Nat → Bool) : (s.putBlock c t f).aborted = s.aborted := rfl
@[simp] theorem State.putBlock_err (s : State) (c : Latched) (t : Nat) (f : Nat → Bool) : (s.putBlock c t f).err = s.err := rfl
@[simp] theorem State.putBlock_outlen (s : State) (c : Latched) (t : Nat) (f : Nat → Bool) : (s.putBlock c t f).outlen = s.outlen := rfl
@[simp] theorem State.putBlock_blocks (s : State) (c : Latched) (t : Nat) (f : Nat → Bool) : (s.putBlock c t f).blocks = s.blocks := rfl
@[simp] theorem State.putBlock_flips (s : State) (c : Latched) (t : Nat) (f : Nat → Bool) : (s.putBlock c t f).flips = s.flips := rfl
@[simp] theorem State.putBlock_ie (s : State) (c : Latched) (t : Nat) (f : Nat → Bool) : (s.putBlock c t f).ie = s.ie := rfl
@[simp] theorem State.putBlock_lc (s : State) (c : Latched) (t : Nat) (f : Nat → Bool) : (s.putBlock c t f).lc = s.lc := rfl
@[simp] theorem State.putBlock_abortPending (s : State) (c : Latched) (t : Nat) (f : Nat → Bool) : (s.putBlock c t f).abortPending = s.abortPending := rfl
@[simp] theorem State.putBlock_env (s : State) (c : Latched) (t : Nat) (f : Nat → Bool) : (s.putBlock c t f).env = s.env := rfl

@[simp] theorem State.putWord_cfgM (s : State) (a : Nat) (w : Word) : (s.putWord a w).cfgM = s.cfgM := rfl
@[simp] theorem State.putWord_cfgR (s : State) (a : Nat) (w : Word) : (s.putWord a w).cfgR = s.cfgR := rfl
@[simp] theorem State.putWord_built (s : State) (a : Nat) (w : Word) : (s.putWord a w).built = s.built := rfl
@[simp] theorem State.putWord_BR (s : State) (a : Nat) (w : Word) : (s.putWord a w).BR = s.BR := rfl
@[simp] theorem State.putWord_BM (s : State) (a : Nat) (w : Word) : (s.putWord a w).BM = s.BM := rfl
@[simp] theorem State.putWord_K (s : State) (a : Nat) (w : Word) : (s.putWord a w).K = s.K := rfl
@[simp] theorem State.putWord_N (s : State) (a : Nat) (w : Word) : (s.putWord a w).N = s.N := rfl
@[simp] theorem State.putWord_grows (s : State) (a : Nat) (w : Word) : (s.putWord a w).grows = s.grows := rfl
@[simp] theorem State.putWord_gcols (s : State) (a : Nat) (w : Word) : (s.putWord a w).gcols = s.gcols := rfl
@[simp] theorem State.putWord_pe (s : State) (a : Nat) (w : Word) : (s.putWord a w).pe = s.pe := rfl
@[simp] theorem State.putWord_irows (s : State) (a : Nat) (w : Word) : (s.putWord a w).irows = s.irows := rfl
@[simp] theorem State.putWord_icols (s : State) (a : Nat) (w : Word) : (s.putWord a w).icols = s.icols := rfl
@[simp] theorem State.putWord_len (s : State) (a : Nat) (w : Word) : (s.putWord a w).len = s.len := rfl
@[simp] theorem State.putWord_done (s : State) (a : Nat) (w : Word) : (s.putWord a w).done = s.done := rfl
@[simp] theorem State.putWord_dropped (s : State) (a : Nat) (w : Word) : (s.putWord a w).dropped = s.dropped := rfl
@[simp] theorem State.putWord_aborted (s : State) (a : Nat) (w : Word) : (s.putWord a w).aborted = s.aborted := rfl
@[simp] theorem State.putWord_err (s : State) (a : Nat) (w : Word) : (s.putWord a w).err = s.err := rfl
@[simp] theorem State.putWord_outlen (s : State) (a : Nat) (w : Word) : (s.putWord a w).outlen = s.outlen := rfl
@[simp] theorem State.putWord_blocks (s : State) (a : Nat) (w : Word) : (s.putWord a w).blocks = s.blocks := rfl
@[simp] theorem State.putWord_flips (s : State) (a : Nat) (w : Word) : (s.putWord a w).flips = s.flips := rfl
@[simp] theorem State.putWord_ie (s : State) (a : Nat) (w : Word) : (s.putWord a w).ie = s.ie := rfl
@[simp] theorem State.putWord_lc (s : State) (a : Nat) (w : Word) : (s.putWord a w).lc = s.lc := rfl
@[simp] theorem State.putWord_abortPending (s : State) (a : Nat) (w : Word) : (s.putWord a w).abortPending = s.abortPending := rfl
@[simp] theorem State.putWord_env (s : State) (a : Nat) (w : Word) : (s.putWord a w).env = s.env := rfl

/-! ### BUSY -/

theorem State.busy_eq (s : State) : s.busy = s.lc.isSome := rfl

theorem State.busy_false_iff (s : State) : s.busy = false ↔ s.lc = none := by
  simp [State.busy_eq]

theorem State.busy_true_iff (s : State) : s.busy = true ↔ ∃ c, s.lc = some c := by
  simp [State.busy_eq, Option.isSome_iff_exists]

end Sys2Proof.Machine
end

