-- ==== Sys2Proof/Laws/Issue.lean ====
section
/-! SUPPORT. What the issue of a command can do (R200–R206): every `exec` is one `issue` of the command's checks, and
the checks agree with the error tables. -/

namespace Sys2Proof.Machine

/-- Every command's issue is `State.issue` of some outcome of its checks; what it latches is the command's opcode and
buffers. -/
theorem exec_eq_issue (i : Instr) (s : State) :
    ∃ checks, exec i s = .next (s.issue checks) := by
  cases i <;> exact ⟨_, rfl⟩

theorem issue_busy {s : State} (h : s.busy = true) (checks : Except ErrCode Latched) : s.issue checks = s.drop := by
  simp [State.issue, h]

theorem issue_error {s : State} (h : s.busy = false) (e : ErrCode) :
    s.issue (.error e) = s.beginIssue.fail e := by
  simp [State.issue, h]

theorem issue_ok {s : State} (h : s.busy = false) (c : Latched) :
    s.issue (.ok c) = s.beginIssue.accept c := by
  simp [State.issue, h]

/-- Everything an issue can do. -/
theorem issue_cases (s : State) (checks : Except ErrCode Latched) :
    (s.busy = true ∧ s.issue checks = s.drop) ∨
    (s.busy = false ∧ ∃ e, checks = .error e ∧ s.issue checks = s.beginIssue.fail e) ∨
    (s.busy = false ∧ ∃ c, checks = .ok c ∧ s.issue checks = s.beginIssue.accept c) := by
  cases hb : s.busy with
  | true => exact .inl ⟨rfl, issue_busy hb _⟩
  | false =>
    cases checks with
    | error e => exact .inr (.inl ⟨rfl, e, rfl, issue_error hb e⟩)
    | ok c => exact .inr (.inr ⟨rfl, c, rfl, issue_ok hb c⟩)

/-- An accepted command with a block step runs. -/
theorem accept_running (s : State) {c : Latched} (h : c.T ≠ 0) :
    s.accept c =
      { s with
        err := .none, done := false, abortPending := false,
        flips := if c.op = .transmit then 0#32 else s.flips, lc := some c } := by
  simp [State.accept, h]

/-- An accepted command with no block step completes at once. -/
theorem accept_empty (s : State) {c : Latched} (h : c.T = 0) :
    s.accept c =
      { s with
        err := .none, done := true, aborted := false, abortPending := false,
        flips := if c.op = .transmit then 0#32 else s.flips, lc := none } := by
  simp [State.accept, h, State.complete]

section
variable (s : State) (c : Latched)

@[simp] theorem State.accept_cfgM : (s.accept c).cfgM = s.cfgM := by by_cases h : c.T = 0 <;> simp [State.accept, h]
@[simp] theorem State.accept_cfgR : (s.accept c).cfgR = s.cfgR := by by_cases h : c.T = 0 <;> simp [State.accept, h]
@[simp] theorem State.accept_built : (s.accept c).built = s.built := by by_cases h : c.T = 0 <;> simp [State.accept, h]
@[simp] theorem State.accept_BR : (s.accept c).BR = s.BR := by by_cases h : c.T = 0 <;> simp [State.accept, h]
@[simp] theorem State.accept_BM : (s.accept c).BM = s.BM := by by_cases h : c.T = 0 <;> simp [State.accept, h]
@[simp] theorem State.accept_K : (s.accept c).K = s.K := by by_cases h : c.T = 0 <;> simp [State.accept, h]
@[simp] theorem State.accept_N : (s.accept c).N = s.N := by by_cases h : c.T = 0 <;> simp [State.accept, h]
@[simp] theorem State.accept_grows : (s.accept c).grows = s.grows := by by_cases h : c.T = 0 <;> simp [State.accept, h]
@[simp] theorem State.accept_gcols : (s.accept c).gcols = s.gcols := by by_cases h : c.T = 0 <;> simp [State.accept, h]
@[simp] theorem State.accept_pe : (s.accept c).pe = s.pe := by by_cases h : c.T = 0 <;> simp [State.accept, h]
@[simp] theorem State.accept_irows : (s.accept c).irows = s.irows := by by_cases h : c.T = 0 <;> simp [State.accept, h]
@[simp] theorem State.accept_icols : (s.accept c).icols = s.icols := by by_cases h : c.T = 0 <;> simp [State.accept, h]
@[simp] theorem State.accept_len : (s.accept c).len = s.len := by by_cases h : c.T = 0 <;> simp [State.accept, h]
@[simp] theorem State.accept_dropped : (s.accept c).dropped = s.dropped := by by_cases h : c.T = 0 <;> simp [State.accept, h]
@[simp] theorem State.accept_err : (s.accept c).err = .none := by by_cases h : c.T = 0 <;> simp [State.accept, h]
@[simp] theorem State.accept_outlen : (s.accept c).outlen = s.outlen := by by_cases h : c.T = 0 <;> simp [State.accept, h]
@[simp] theorem State.accept_blocks : (s.accept c).blocks = s.blocks := by by_cases h : c.T = 0 <;> simp [State.accept, h]
@[simp] theorem State.accept_flips :
    (s.accept c).flips = if c.op = .transmit then 0#32 else s.flips := by by_cases h : c.T = 0 <;> simp [State.accept, h]
@[simp] theorem State.accept_ie : (s.accept c).ie = s.ie := by by_cases h : c.T = 0 <;> simp [State.accept, h]
@[simp] theorem State.accept_mem : (s.accept c).mem = s.mem := by by_cases h : c.T = 0 <;> simp [State.accept, h]
@[simp] theorem State.accept_abortPending : (s.accept c).abortPending = false := by
  by_cases h : c.T = 0 <;> simp [State.accept, h]
@[simp] theorem State.accept_env : (s.accept c).env = s.env := by by_cases h : c.T = 0 <;> simp [State.accept, h]
theorem State.accept_lc : (s.accept c).lc = if c.T = 0 then none else some c := by
  by_cases h : c.T = 0 <;> simp [State.accept, h]
theorem State.accept_done : (s.accept c).done = decide (c.T = 0) := by
  by_cases h : c.T = 0 <;> simp [State.accept, h]
theorem State.accept_aborted : (s.accept c).aborted = (if c.T = 0 then false else s.aborted) := by
  by_cases h : c.T = 0 <;> simp [State.accept, h]

end

/-- An issue of an idle machine that leaves it idle has completed: it failed, or its command has no block step (R200). -/
theorem issue_done {s : State} {checks : Except ErrCode Latched} (hb : s.busy = false)
    (ht : (s.issue checks).busy = false) : (s.issue checks).done = true := by
  obtain ⟨h, -⟩ | ⟨-, e, -, h⟩ | ⟨-, c, -, h⟩ := issue_cases s checks
  · simp [hb] at h
  · rw [h]; rfl
  · rw [h, State.busy_false_iff, State.accept_lc] at ht
    rw [h, State.accept_done]
    simpa using ht

/-- What a command that runs after an issue has latched is what its checks gave (R44, R200). -/
theorem issue_lc {s : State} {checks : Except ErrCode Latched} {c : Latched} (hb : s.busy = false)
    (hc : (s.issue checks).lc = some c) : checks = .ok c := by
  obtain ⟨h, -⟩ | ⟨-, e, -, h⟩ | ⟨-, d, hd, h⟩ := issue_cases s checks
  · simp [hb] at h
  · rw [h, show (s.beginIssue.fail e).lc = s.lc from rfl, (State.busy_false_iff s).mp hb] at hc
    cases hc
  · rw [h, State.accept_lc] at hc
    split at hc <;> cases hc
    exact hd

/-! ### What a passed check says -/

theorem ite_error_ok {p : Prop} [Decidable p] {e : ErrCode} {x : Except ErrCode Latched} {c : Latched} :
    (if p then .error e else x) = .ok c ↔ ¬p ∧ x = .ok c := by
  split <;> simp_all

theorem distinctBufs_ok {src dst : Buf} {rest : Except ErrCode Latched} {c : Latched} :
    distinctBufs src dst rest = .ok c ↔ src ≠ dst ∧ rest = .ok c :=
  ite_error_ok

theorem buildChecks_ok {s : State} {c : Latched} (h : buildChecks s = .ok c) :
    s.cfgM.toNat ≤ 8 ∧ s.cfgR.toNat ≤ s.cfgM.toNat ∧
      c = { latch .build .buf0 .buf0 1 0 0 with r := s.cfgR, m := s.cfgM } := by
  simp only [buildChecks, ite_error_ok, Except.ok.injEq] at h
  simp only [Config.mMax] at h
  obtain ⟨h1, rfl⟩ := h
  exact ⟨by omega, by omega, rfl⟩

theorem matvecChecks_ok {src dst : Buf} {s : State} {c : Latched} (h : matvecChecks src dst s = .ok c) :
    src ≠ dst ∧ (1 ≤ s.grows.toNat ∧ s.grows.toNat ≤ 256 ∧ 1 ≤ s.gcols.toNat ∧ s.gcols.toNat ≤ 256) ∧
      s.len.toNat % s.grows.toNat = 0 ∧ s.len.toNat ≤ 65536 ∧
      s.len.toNat / s.grows.toNat * s.gcols.toNat ≤ 65536 ∧
      c = { latch .matvec src dst (s.len.toNat / s.grows.toNat) s.grows.toNat s.gcols.toNat with
            grows := s.grows, gcols := s.gcols } := by
  simp only [matvecChecks, distinctBufs_ok, ite_error_ok, Except.ok.injEq] at h
  simp only [Config.gramMax, Config.bufBits] at h
  obtain ⟨hd, hs, hl, hc, rfl⟩ := h
  exact ⟨hd, by omega, by omega, by omega, by omega, rfl⟩

theorem encodeChecks_ok {src dst : Buf} {s : State} {c : Latched} (h : encodeChecks src dst s = .ok c) :
    src ≠ dst ∧ s.built = true ∧ s.grows = s.K ∧ s.gcols = s.N ∧
      s.len.toNat % s.K.toNat = 0 ∧ s.len.toNat ≤ 65536 ∧ s.len.toNat / s.K.toNat * s.N.toNat ≤ 65536 ∧
      c = { latch .encode src dst (s.len.toNat / s.K.toNat) s.K.toNat s.N.toNat with
            r := s.BR, m := s.BM, K := s.K, N := s.N, grows := s.grows, gcols := s.gcols } := by
  simp only [encodeChecks, distinctBufs_ok, ite_error_ok, Except.ok.injEq] at h
  simp only [Config.bufBits] at h
  obtain ⟨hd, hb, hs, hl, hc, rfl⟩ := h
  rw [not_or, not_not, not_not] at hs
  exact ⟨hd, by simpa using hb, hs.1, hs.2, by omega, by omega, by omega, rfl⟩

theorem transmitChecks_ok {src dst : Buf} {s : State} {c : Latched} (h : transmitChecks src dst s = .ok c) :
    src ≠ dst ∧ s.pe.toNat ≤ 65536 ∧ s.len.toNat ≤ 65536 ∧
      c = { latch .transmit src dst s.len.toNat 1 1 with pe := s.pe } := by
  simp only [transmitChecks, distinctBufs_ok, ite_error_ok, Except.ok.injEq] at h
  simp only [Config.bufBits, Config.peOne] at h
  obtain ⟨hd, hp, hl, rfl⟩ := h
  exact ⟨hd, by omega, by omega, rfl⟩

theorem decodeChecks_ok {src dst : Buf} {s : State} {c : Latched} (h : decodeChecks src dst s = .ok c) :
    src ≠ dst ∧ s.built = true ∧ s.len.toNat % s.N.toNat = 0 ∧ s.len.toNat ≤ 65536 ∧
      c = { latch .decode src dst (s.len.toNat / s.N.toNat) s.N.toNat s.K.toNat with
            r := s.BR, m := s.BM, K := s.K, N := s.N } := by
  simp only [decodeChecks, distinctBufs_ok, ite_error_ok, Except.ok.injEq] at h
  simp only [Config.bufBits] at h
  obtain ⟨hd, hb, hl, hc, rfl⟩ := h
  exact ⟨hd, by simpa using hb, by omega, by omega, rfl⟩

theorem checksChecks_ok {src dst : Buf} {s : State} {c : Latched} (h : checksChecks src dst s = .ok c) :
    src ≠ dst ∧ s.built = true ∧ s.len.toNat % s.N.toNat = 0 ∧ s.len.toNat ≤ 65536 ∧
      s.len.toNat / s.N.toNat * syndromeLen s.BR.toNat s.BM.toNat ≤ 65536 ∧
      c = { latch .checks src dst (s.len.toNat / s.N.toNat) s.N.toNat (syndromeLen s.BR.toNat s.BM.toNat) with
            r := s.BR, m := s.BM, K := s.K, N := s.N } := by
  simp only [checksChecks, distinctBufs_ok, ite_error_ok, Except.ok.injEq] at h
  simp only [Config.bufBits] at h
  obtain ⟨hd, hb, hl, hc, rfl⟩ := h
  exact ⟨hd, by simpa using hb, by omega, by omega, by omega, rfl⟩

theorem frameChecks_ok {op : Opcode} {src dst : Buf} {s : State} {c : Latched}
    (h : frameChecks op src dst s = .ok c) :
    src ≠ dst ∧ s.irows.toNat ≠ 0 ∧ s.icols.toNat ≠ 0 ∧
      s.len.toNat % (s.irows.toNat * s.icols.toNat) = 0 ∧ s.len.toNat ≤ 65536 ∧
      c = { latch op src dst (s.len.toNat / (s.irows.toNat * s.icols.toNat)) (s.irows.toNat * s.icols.toNat)
              (s.irows.toNat * s.icols.toNat) with irows := s.irows, icols := s.icols } := by
  simp only [frameChecks, distinctBufs_ok, ite_error_ok, Except.ok.injEq] at h
  simp only [Config.bufBits] at h
  obtain ⟨hd, hp, hl, hc, rfl⟩ := h
  exact ⟨hd, by omega, by omega, by omega, by omega, rfl⟩

/-! ### When a check passes -/

theorem buildChecks_passed {s : State} (hm : s.cfgM.toNat ≤ 8) (hr : s.cfgR.toNat ≤ s.cfgM.toNat) :
    buildChecks s = .ok { latch .build .buf0 .buf0 1 0 0 with r := s.cfgR, m := s.cfgM } :=
  ite_error_ok.mpr ⟨by simp only [Config.mMax]; omega, rfl⟩

theorem matvecChecks_passed {src dst : Buf} {s : State} (hd : src ≠ dst) (hs : 1 ≤ s.grows.toNat)
    (hs' : s.grows.toNat ≤ 256) (ht : 1 ≤ s.gcols.toNat) (ht' : s.gcols.toNat ≤ 256)
    (hl : s.len.toNat % s.grows.toNat = 0) (hc : s.len.toNat ≤ 65536)
    (ho : s.len.toNat / s.grows.toNat * s.gcols.toNat ≤ 65536) :
    matvecChecks src dst s =
      .ok { latch .matvec src dst (s.len.toNat / s.grows.toNat) s.grows.toNat s.gcols.toNat with
            grows := s.grows, gcols := s.gcols } :=
  distinctBufs_ok.mpr ⟨hd, ite_error_ok.mpr ⟨by simp only [Config.gramMax]; omega,
    ite_error_ok.mpr ⟨not_not.mpr hl,
    ite_error_ok.mpr ⟨by simp only [Config.bufBits]; omega, rfl⟩⟩⟩⟩

theorem encodeChecks_passed {src dst : Buf} {s : State} (hd : src ≠ dst) (hb : s.built = true)
    (hg : s.grows = s.K) (hg' : s.gcols = s.N) (hl : s.len.toNat % s.K.toNat = 0) (hc : s.len.toNat ≤ 65536)
    (ho : s.len.toNat / s.K.toNat * s.N.toNat ≤ 65536) :
    encodeChecks src dst s =
      .ok { latch .encode src dst (s.len.toNat / s.K.toNat) s.K.toNat s.N.toNat with
            r := s.BR, m := s.BM, K := s.K, N := s.N, grows := s.grows, gcols := s.gcols } :=
  distinctBufs_ok.mpr ⟨hd, ite_error_ok.mpr ⟨by simp [hb],
    ite_error_ok.mpr ⟨by simp [hg, hg'],
    ite_error_ok.mpr ⟨not_not.mpr hl,
    ite_error_ok.mpr ⟨by simp only [Config.bufBits]; omega, rfl⟩⟩⟩⟩⟩

theorem transmitChecks_passed {src dst : Buf} {s : State} (hd : src ≠ dst) (hp : s.pe.toNat ≤ 65536)
    (hc : s.len.toNat ≤ 65536) :
    transmitChecks src dst s = .ok { latch .transmit src dst s.len.toNat 1 1 with pe := s.pe } :=
  distinctBufs_ok.mpr ⟨hd, ite_error_ok.mpr ⟨by simp only [Config.peOne]; omega,
    ite_error_ok.mpr ⟨by simp only [Config.bufBits]; omega, rfl⟩⟩⟩

theorem decodeChecks_passed {src dst : Buf} {s : State} (hd : src ≠ dst) (hb : s.built = true)
    (hl : s.len.toNat % s.N.toNat = 0) (hc : s.len.toNat ≤ 65536) :
    decodeChecks src dst s =
      .ok { latch .decode src dst (s.len.toNat / s.N.toNat) s.N.toNat s.K.toNat with
            r := s.BR, m := s.BM, K := s.K, N := s.N } :=
  distinctBufs_ok.mpr ⟨hd, ite_error_ok.mpr ⟨by simp [hb],
    ite_error_ok.mpr ⟨not_not.mpr hl,
    ite_error_ok.mpr ⟨by simp only [Config.bufBits]; omega, rfl⟩⟩⟩⟩

theorem checksChecks_passed {src dst : Buf} {s : State} (hd : src ≠ dst) (hb : s.built = true)
    (hl : s.len.toNat % s.N.toNat = 0) (hc : s.len.toNat ≤ 65536)
    (ho : s.len.toNat / s.N.toNat * syndromeLen s.BR.toNat s.BM.toNat ≤ 65536) :
    checksChecks src dst s =
      .ok { latch .checks src dst (s.len.toNat / s.N.toNat) s.N.toNat (syndromeLen s.BR.toNat s.BM.toNat) with
            r := s.BR, m := s.BM, K := s.K, N := s.N } :=
  distinctBufs_ok.mpr ⟨hd, ite_error_ok.mpr ⟨by simp [hb],
    ite_error_ok.mpr ⟨not_not.mpr hl,
    ite_error_ok.mpr ⟨by simp only [Config.bufBits]; omega, rfl⟩⟩⟩⟩

theorem frameChecks_passed {op : Opcode} {src dst : Buf} {s : State} (hd : src ≠ dst) (hr : s.irows.toNat ≠ 0)
    (hc : s.icols.toNat ≠ 0) (hl : s.len.toNat % (s.irows.toNat * s.icols.toNat) = 0) (hn : s.len.toNat ≤ 65536) :
    frameChecks op src dst s =
      .ok { latch op src dst (s.len.toNat / (s.irows.toNat * s.icols.toNat)) (s.irows.toNat * s.icols.toNat)
              (s.irows.toNat * s.icols.toNat) with irows := s.irows, icols := s.icols } :=
  distinctBufs_ok.mpr ⟨hd, ite_error_ok.mpr ⟨by omega,
    ite_error_ok.mpr ⟨not_not.mpr hl,
    ite_error_ok.mpr ⟨by simp only [Config.bufBits]; omega, rfl⟩⟩⟩⟩

end Sys2Proof.Machine
end

