-- ==== Sys2Proof/Laws/PerInstr.lean ====
section
/-! SUPPORT. Facts about every command as syntax, one lemma per constructor: the OP its word carries (R92) and the
bits that say nothing else (R90). -/

namespace Sys2Proof.Laws.OpcodeField

/-- The word of a command has its table's OP in bits [3:0], its buffers in bits 4 and 5, and 0 in bits [31:6]
(R90, R92); the decoder gives the command back when it is well-formed and rejects the word when SRC = DST (R94, R98). -/
def Statement (i : Instr) : Prop :=
  cwOp (encode i) = opField i ∧ cwSrc (encode i) = (bufFields i).1 ∧ cwDst (encode i) = (bufFields i).2 ∧
    cwRsv (encode i) = 0#26 ∧
    decodeCW (encode i) = if i.wf then .ok i else .error .sameBuffer

theorem build (src dst : Buf) : Statement (.build src dst) := by
  cases src <;> cases dst <;> exact ⟨rfl, rfl, rfl, rfl, rfl⟩

theorem encode (src dst : Buf) : Statement (.encode src dst) := by
  cases src <;> cases dst <;> exact ⟨rfl, rfl, rfl, rfl, rfl⟩

theorem matvec (src dst : Buf) : Statement (.matvec src dst) := by
  cases src <;> cases dst <;> exact ⟨rfl, rfl, rfl, rfl, rfl⟩

theorem transmit (src dst : Buf) : Statement (.transmit src dst) := by
  cases src <;> cases dst <;> exact ⟨rfl, rfl, rfl, rfl, rfl⟩

theorem decode (src dst : Buf) : Statement (.decode src dst) := by
  cases src <;> cases dst <;> exact ⟨rfl, rfl, rfl, rfl, rfl⟩

theorem interleave (src dst : Buf) : Statement (.interleave src dst) := by
  cases src <;> cases dst <;> exact ⟨rfl, rfl, rfl, rfl, rfl⟩

theorem deinterleave (src dst : Buf) : Statement (.deinterleave src dst) := by
  cases src <;> cases dst <;> exact ⟨rfl, rfl, rfl, rfl, rfl⟩

theorem checks (src dst : Buf) : Statement (.checks src dst) := by
  cases src <;> cases dst <;> exact ⟨rfl, rfl, rfl, rfl, rfl⟩

end Sys2Proof.Laws.OpcodeField
end

