-- ==== Sys2Proof/Laws/Step.lean ====
section
/-! SUPPORT. What a sequencer step, a host access and a step of the machine can do (R20, R60–R69, R201), each said
once. -/

namespace Sys2Proof.Machine

/-! ### The sequencer -/

theorem sequencerStep_idle {s : State} (h : s.lc = none) : sequencerStep s = s := by
  simp [sequencerStep, h]

theorem sequencerStep_abort {s : State} {c : Latched} (h : s.lc = some c) (ha : s.abortPending = true) :
    sequencerStep s = s.complete true := by
  simp [sequencerStep, h, ha]

theorem sequencerStep_block {s : State} {c : Latched} (h : s.lc = some c) (ha : s.abortPending = false) :
    sequencerStep s =
      if ((blockStep c s.blocks.toNat s).countBlock c).blocks.toNat = c.T
      then ((blockStep c s.blocks.toNat s).countBlock c).complete false
      else (blockStep c s.blocks.toNat s).countBlock c := by
  simp [sequencerStep, h, ha]

/-- A block step changes memory, the built code and GSHAPE (BUILD), FLIPS and the draws (TRANSMIT), and nothing else
(R33, R110, R150). -/
theorem blockStep_eq (c : Latched) (t : Nat) (s : State) :
    blockStep c t s =
      { s with
        K := (blockStep c t s).K, N := (blockStep c t s).N
        grows := (blockStep c t s).grows, gcols := (blockStep c t s).gcols
        BR := (blockStep c t s).BR, BM := (blockStep c t s).BM
        built := (blockStep c t s).built
        flips := (blockStep c t s).flips
        mem := (blockStep c t s).mem
        env := (blockStep c t s).env } := by
  unfold blockStep
  cases c.op <;> rfl

section
variable (c : Latched) (t : Nat) (s : State)

@[simp] theorem blockStep_cfgM : (blockStep c t s).cfgM = s.cfgM := by rw [blockStep_eq]
@[simp] theorem blockStep_cfgR : (blockStep c t s).cfgR = s.cfgR := by rw [blockStep_eq]
@[simp] theorem blockStep_pe : (blockStep c t s).pe = s.pe := by rw [blockStep_eq]
@[simp] theorem blockStep_irows : (blockStep c t s).irows = s.irows := by rw [blockStep_eq]
@[simp] theorem blockStep_icols : (blockStep c t s).icols = s.icols := by rw [blockStep_eq]
@[simp] theorem blockStep_len : (blockStep c t s).len = s.len := by rw [blockStep_eq]
@[simp] theorem blockStep_done : (blockStep c t s).done = s.done := by rw [blockStep_eq]
@[simp] theorem blockStep_dropped : (blockStep c t s).dropped = s.dropped := by rw [blockStep_eq]
@[simp] theorem blockStep_aborted : (blockStep c t s).aborted = s.aborted := by rw [blockStep_eq]
@[simp] theorem blockStep_err : (blockStep c t s).err = s.err := by rw [blockStep_eq]
@[simp] theorem blockStep_outlen : (blockStep c t s).outlen = s.outlen := by rw [blockStep_eq]
@[simp] theorem blockStep_blocks : (blockStep c t s).blocks = s.blocks := by rw [blockStep_eq]
@[simp] theorem blockStep_ie : (blockStep c t s).ie = s.ie := by rw [blockStep_eq]
@[simp] theorem blockStep_lc : (blockStep c t s).lc = s.lc := by rw [blockStep_eq]
@[simp] theorem blockStep_abortPending : (blockStep c t s).abortPending = s.abortPending := by rw [blockStep_eq]

end

/-- A block step of any command but BUILD is one write of its output block, up to FLIPS and the draws (R67, R71). -/
theorem blockStep_stream {c : Latched} (h : c.op ≠ .build) (t : Nat) (s : State) :
    ∃ f, blockStep c t s =
      { s.putBlock c t f with
        flips := (blockStep c t s).flips
        env := { s.env with
                 port := (blockStep c t s).env.port, drawn := (blockStep c t s).env.drawn } } := by
  unfold blockStep
  cases hc : c.op with
  | build => exact absurd hc h
  | encode => exact ⟨matVec s c.K.toNat (s.srcBit c t), rfl⟩
  | matvec => exact ⟨matVec s c.grows.toNat (s.srcBit c t), rfl⟩
  | transmit => exact ⟨fun i => xor (s.srcBit c t i) (flipped s.nextDraw c.pe), rfl⟩
  | decode => exact ⟨((reedDecode (s.srcBlock c t) c.r.toNat c.m.toNat).getD · false), rfl⟩
  | interleave => exact ⟨fun q => s.srcBit c t (frameMap c.icols.toNat c.irows.toNat q), rfl⟩
  | deinterleave => exact ⟨fun q => s.srcBit c t (frameMap c.irows.toNat c.icols.toNat q), rfl⟩
  | checks => exact ⟨((syndrome c.r.toNat c.m.toNat (s.srcBit c t)).getD · false), rfl⟩

/-- Only TRANSMIT's block step touches FLIPS and the draws (R38, R151). -/
theorem blockStep_noDraws {c : Latched} (h : c.op ≠ .transmit) (t : Nat) (s : State) :
    (blockStep c t s).flips = s.flips ∧ (blockStep c t s).env = s.env := by
  unfold blockStep
  cases hc : c.op with
  | transmit => exact absurd hc h
  | build => exact ⟨rfl, rfl⟩
  | encode => exact ⟨rfl, rfl⟩
  | matvec => exact ⟨rfl, rfl⟩
  | decode => exact ⟨rfl, rfl⟩
  | interleave => exact ⟨rfl, rfl⟩
  | deinterleave => exact ⟨rfl, rfl⟩
  | checks => exact ⟨rfl, rfl⟩

/-! ### The block step of each stream command -/

section
variable {c : Latched} (t : Nat) (s : State)

theorem blockStep_encode (h : c.op = .encode) :
    blockStep c t s = s.putBlock c t (matVec s c.K.toNat (s.srcBit c t)) := by
  simp only [blockStep, h, encodeBlock]

theorem blockStep_matvec (h : c.op = .matvec) :
    blockStep c t s = s.putBlock c t (matVec s c.grows.toNat (s.srcBit c t)) := by
  simp only [blockStep, h, matvecBlock]

theorem blockStep_transmit (h : c.op = .transmit) :
    blockStep c t s =
      { s.afterDraw.putBlock c t (fun i => xor (s.srcBit c t i) (flipped s.nextDraw c.pe)) with
        flips := if flipped s.nextDraw c.pe then s.flips + 1#32 else s.flips } := by
  simp only [blockStep, h, transmitBlock]

theorem blockStep_decode (h : c.op = .decode) :
    blockStep c t s =
      s.putBlock c t ((reedDecode (s.srcBlock c t) c.r.toNat c.m.toNat).getD · false) := by
  simp only [blockStep, h, decodeBlock]

theorem blockStep_interleave (h : c.op = .interleave) :
    blockStep c t s = s.putBlock c t (fun q => s.srcBit c t (frameMap c.icols.toNat c.irows.toNat q)) := by
  simp only [blockStep, h, interleaveBlock]

theorem blockStep_deinterleave (h : c.op = .deinterleave) :
    blockStep c t s = s.putBlock c t (fun q => s.srcBit c t (frameMap c.irows.toNat c.icols.toNat q)) := by
  simp only [blockStep, h, deinterleaveBlock]

theorem blockStep_checks (h : c.op = .checks) :
    blockStep c t s =
      s.putBlock c t ((syndrome c.r.toNat c.m.toNat (s.srcBit c t)).getD · false) := by
  simp only [blockStep, h, checksBlock]

end

/-! ### The slave port -/

theorem targetOf_reg {a : Nat} {r : Reg} (h : targetOf a = .reg r) : a = r.offset := by
  unfold targetOf at h
  repeat' split at h
  all_goals first
    | (cases h; done)
    | (rename_i ha _ hr
       cases h
       unfold Reg.atOffset at hr
       split at hr <;> cases hr <;> rfl)

theorem targetOf_offset (r : Reg) : targetOf r.offset = .reg r := by cases r <;> rfl

/-- The window addresses of a memory (R62). -/
theorem targetOf_mem {a : Nat} {n : MemName} (h : targetOf a = .mem n) (h4 : a % 4 = 0) :
    match n with
    | .buf .buf0 => 0x4000 ≤ a ∧ a + 4 ≤ 0x6000
    | .buf .buf1 => 0x6000 ≤ a ∧ a + 4 ≤ 0x8000
    | .gram => 0x8000 ≤ a ∧ a + 4 ≤ 0xA000 := by
  unfold targetOf at h
  repeat' split at h
  all_goals cases h
  all_goals simp only
  all_goals omega

theorem targetOf_mem_inside {a : Nat} {n : MemName} (h : targetOf a = .mem n) (h4 : a % 4 = 0) :
    memLo ≤ a ∧ a + 4 ≤ memHi := by
  have := targetOf_mem h h4
  rcases n with (_ | _) | _ <;> simp only at this <;> simp [memLo, memHi] <;> omega

/-- A host read of a register answers its value and changes nothing else (R70). -/
theorem hostRead_reg (s : State) (r : Reg) :
    hostRead .word (BitVec.ofNat 16 r.offset) s = .next (s.respond (.data (s.readReg r))) := by
  cases r <;> rfl

/-- A host write to a register other than CMD stores (R70). -/
theorem hostWrite_reg (s : State) {r : Reg} (v : Word) (h : r ≠ .cmd) :
    hostWrite .word (BitVec.ofNat 16 r.offset) v s = .next ((s.storeReg r v).respond .written) := by
  cases r <;> first | exact absurd rfl h | rfl

/-- A host write to CMD issues a command (R29). -/
theorem hostWrite_cmd (s : State) (w : Word) :
    hostWrite .word cmdAddr w s = onWriteCmd w (s.respond .written) := rfl

/-- A CMD write while BUSY = 1 is dropped, whatever its word (R32, R200). -/
theorem onWriteCmd_busy {s : State} (w : Word) (h : s.busy = true) : onWriteCmd w s = .next s.drop := by
  unfold onWriteCmd
  split
  · rename_i i _
    obtain ⟨checks, hk⟩ := exec_eq_issue i s
    rw [hk, issue_busy h]
  · rw [issue_busy h]

/-- Everything a host access, a sequencer step or a reset can answer. -/
theorem runInput_cases {e : Input} {s t : State} (h : runInput e s = .next t) :
    (∃ x, t = s.respond x) ∨
    (∃ r v, t = (s.storeReg r v).respond .written) ∨
    (∃ n a v, targetOf a = .mem n ∧ a % 4 = 0 ∧ s.inUse n = false ∧ t = (s.putWord a v).respond .written) ∨
    (∃ w i, e = .write .word cmdAddr w ∧ decodeCW w = .ok i ∧ exec i (s.respond .written) = .next t) ∨
    (∃ w x, e = .write .word cmdAddr w ∧ decodeCW w = .error x ∧
      t = (s.respond .written).issue (.error .illegalCommand)) ∨
    (e = .sequencer ∧ t = sequencerStep s) ∨
    (e = .reset ∧ t = s.resetBlock) := by
  cases e with
  | sequencer => cases h; exact .inr (.inr (.inr (.inr (.inr (.inl ⟨rfl, rfl⟩)))))
  | reset => cases h; exact .inr (.inr (.inr (.inr (.inr (.inr ⟨rfl, rfl⟩)))))
  | read width addr =>
    left
    simp only [runInput, hostRead] at h
    split at h
    · split at h
      · cases h; exact ⟨_, rfl⟩
      · unfold hostMemRead at h
        split at h
        · cases h
        · cases h; exact ⟨_, rfl⟩
      · cases h; exact ⟨_, rfl⟩
    · cases h; exact ⟨_, rfl⟩
  | write width addr v =>
    simp only [runInput, hostWrite] at h
    split at h
    · rename_i hs
      have h4 : addr.toNat % 4 = 0 := by simp [supported] at hs; exact hs.2
      split at h
      · rename_i r _
        by_cases hr : r = .cmd
        · subst hr
          rename_i ht
          have ha : addr = cmdAddr := BitVec.eq_of_toNat_eq (targetOf_reg ht)
          have hw : width = .word := by simp [supported] at hs; exact hs.1
          subst ha hw
          simp only [hostRegWrite, onWriteCmd] at h
          split at h
          · exact .inr (.inr (.inr (.inl ⟨v, _, rfl, ‹_›, h⟩)))
          · cases h
            exact .inr (.inr (.inr (.inr (.inl ⟨v, _, rfl, ‹_›, rfl⟩))))
        · right; left
          refine ⟨r, v, ?_⟩
          cases r <;> first | exact absurd rfl hr | (simp only [hostRegWrite] at h; cases h; rfl)
      · rename_i n ht
        unfold hostMemWrite at h
        split at h
        · cases h
        · rename_i hu
          cases h
          exact .inr (.inr (.inl ⟨n, _, v, ht, h4, by simpa using hu, rfl⟩))
      · cases h; exact .inl ⟨_, rfl⟩
    · cases h; exact .inl ⟨_, rfl⟩

theorem step_no_input {s : State} (h : s.env.inputs = []) : step s = .next (sequencerStep s) := by
  simp only [step, agentStep, h]

theorem step_input {s : State} {e : Input} {rest : List Input} (h : s.env.inputs = e :: rest) :
    step s = runInput e (s.withInputs rest) := by
  simp only [step, agentStep, h]

/-- Everything a step of the machine can answer: a sequencer step with no input waiting, or one input's step. -/
theorem step_cases {s t : State} (h : step s = .next t) :
    (s.env.inputs = [] ∧ t = sequencerStep s) ∨
    (∃ e rest, s.env.inputs = e :: rest ∧ runInput e (s.withInputs rest) = .next t) := by
  unfold step agentStep at h
  split at h
  · cases h; exact .inl ⟨‹_›, rfl⟩
  · exact .inr ⟨_, _, ‹_›, h⟩

end Sys2Proof.Machine
end

