-- ==== Sys2Proof/Laws/Run.lean ====
section
/-! SUPPORT. A run of the sequencer over a whole command (R201): what holds after k block steps of a stream command,
said once for every stream command. -/

namespace Sys2Proof.Machine

theorem sequencerRun_succ (n : Nat) (s : State) : sequencerRun (n + 1) s = sequencerStep (sequencerRun n s) := by
  induction n generalizing s with
  | zero => rfl
  | succ n ih => rw [sequencerRun, ih, sequencerRun]

theorem sequencerRun_idle {s : State} (h : s.lc = none) (n : Nat) : sequencerRun n s = s := by
  induction n with
  | zero => rfl
  | succ n ih => rw [sequencerRun_succ, ih, sequencerStep_idle h]

/-! ### What a block write leaves -/

/-- The block [t·OB, (t+1)·OB) lies inside the buffer when the whole output does (R205). -/
theorem block_end_le {T OB t : Nat} (ht : t < T) (h : T * OB ≤ 65536) : t * OB + OB ≤ 65536 := by
  have : (t + 1) * OB ≤ T * OB := Nat.mul_le_mul_right _ ht
  rw [Nat.add_mul] at this
  omega

/-- Two blocks do not overlap (R67). -/
theorem block_apart {b t OB j : Nat} (h : b < t) (hj : j < OB) : b * OB + j < t * OB := by
  have : (b + 1) * OB ≤ t * OB := Nat.mul_le_mul_right _ h
  rw [Nat.add_mul] at this
  omega

/-- One more block keeps the rest of the memories (R71). -/
theorem OnlyStream.step {s u v : State} {b : Buf} {len off count : Nat} {f : Nat → Bool}
    (h : OnlyStream b len s u) (hv : v.mem = (u.setBufBits b off count f).mem) (he : v.env.epoch = u.env.epoch)
    (ho : off = len) (hc : len + count ≤ 65536) : OnlyStream b (len + count) s v := by
  subst ho
  have hbyte : ∀ a, v.byteAt a = (u.setBufBits b off count f).byteAt a := State.byteAt_congr hv he
  have hbit : ∀ i, v.bufBit b i = (u.setBufBits b off count f).bufBit b i := State.bufBit_congr hv he b
  constructor
  · intro a h1 h2 h3
    unfold holdsStream at h3
    have h4 : a < bufBase b + off / 8 ∨ bufBase b + off / 8 + bitSpan off count ≤ a := by
      by_contra hcon
      apply h3
      have : bitSpan off count ≠ 0 := by omega
      unfold bitSpan at hcon this
      split at hcon
      · omega
      · omega
    rw [hbyte, State.byteAt_setBufBits_outside _ _ _ _ _ h4]
    refine h.otherBytes a h1 h2 (fun h5 => h3 ?_)
    unfold holdsStream at h5
    omega
  · intro i h1 h2
    rw [hbit, State.bufBit_setBufBits, if_neg (by omega)]
    exact h.otherBits i (by omega) h2

/-- A run that only touches the stream leaves the other buffer (R63). -/
theorem OnlyStream.bufBit_other {s u : State} {b b' : Buf} {len : Nat} (h : OnlyStream b len s u) (hb : b' ≠ b)
    (hl : len ≤ 65536) {i : Nat} (hi : i < 65536) : u.bufBit b' i = s.bufBit b' i := by
  unfold State.bufBit
  rw [h.otherBytes]
  · cases b' <;> simp [bufBase, memLo, Nat.le_add_right_of_le]
  · have : memHi = 0xA000 := rfl
    cases b' <;> simp only [bufBase] <;> omega
  · unfold holdsStream
    cases b <;> cases b' <;> simp_all [bufBase] <;> omega

/-- A run that only touches the stream leaves GRAM (R62). -/
theorem OnlyStream.gBit {s u : State} {b : Buf} {len : Nat} (h : OnlyStream b len s u) (hl : len ≤ 65536)
    {i j : Nat} (hi : i < 256) (hj : j < 256) : u.gBit i j = s.gBit i j := by
  unfold State.gBit
  rw [h.otherBytes]
  · simp [gramBase, memLo]; omega
  · simp [gramBase, memHi]; omega
  · unfold holdsStream
    cases b <;> simp_all [bufBase, gramBase] <;> omega

theorem OnlyStream.refl (b : Buf) (len : Nat) (s : State) : OnlyStream b len s s :=
  ⟨fun _ _ _ _ => rfl, fun _ _ _ => rfl⟩

/-! ### k block steps -/

/-- The state after `k` block steps of the stream command `c` from its accepted state `s`, BLOCKS and OUTLEN counting
them, the output so far being `out`. -/
structure AfterBlocks (c : Latched) (s : State) (out : Nat → Nat → Bool) (k : Nat) (u : State) : Prop where
  regs : u =
    { s with
      blocks := BitVec.ofNat 32 k, outlen := BitVec.ofNat 32 (k * c.OB)
      lc := if k = c.T then none else some c
      done := decide (k = c.T)
      flips := u.flips, mem := u.mem
      env := { s.env with port := u.env.port, drawn := u.env.drawn } }
  output : ∀ b < k, ∀ j < c.OB, u.bufBit c.dst (b * c.OB + j) = out b j
  frame : OnlyStream c.dst (k * c.OB) s u

/-- The run of a stream command (R201). `out` is the output of the run, `extra` what holds of FLIPS and the draws: a
block step in a state whose source and GRAM are the accepted state's writes `out`, and keeps `extra`. -/
theorem sequencerRun_stream {c : Latched} {s : State} {out : Nat → Nat → Bool} {extra : Nat → State → Prop}
    (hc : s.lc = some c) (hop : c.op ≠ .build) (hT : c.T ≤ 65536) (hT0 : c.T ≠ 0)
    (hO : c.T * c.OB ≤ 65536) (ha : s.abortPending = false) (hab : s.aborted = false) (hd : s.done = false)
    (hb : s.blocks = 0#32) (ho : s.outlen = 0#32) (h0 : extra 0 s)
    (hstep : ∀ k < c.T, ∀ u, OnlyStream c.dst (k * c.OB) s u → extra k u → u.env.epoch = s.env.epoch →
      (∀ j < c.OB, (blockStep c k u).bufBit c.dst (k * c.OB + j) = out k j) ∧
      ∀ v, v.flips = (blockStep c k u).flips → v.env = (blockStep c k u).env → extra (k + 1) v) :
    ∀ k ≤ c.T, AfterBlocks c s out k (sequencerRun k s) ∧ extra k (sequencerRun k s) := by
  intro k
  induction k with
  | zero =>
    intro _
    refine ⟨⟨?_, fun b hb => absurd hb (by omega), OnlyStream.refl _ _ _⟩, h0⟩
    have h1 : ¬(0 = c.T) := fun h => hT0 h.symm
    cases s
    simp_all [sequencerRun]
  | succ k ih =>
    intro hk
    obtain ⟨⟨hregs, hout, hframe⟩, hx⟩ := ih (by omega)
    rw [sequencerRun_succ]
    generalize sequencerRun k s = u at hregs hout hframe hx
    have hkT : k ≠ c.T := by omega
    have hlc : u.lc = some c := by rw [hregs]; simp [hkT]
    have hua : u.abortPending = false := by rw [hregs]; exact ha
    have hub : u.blocks.toNat = k := by rw [hregs]; simp; omega
    have hend := block_end_le (by omega : k < c.T) hO
    have hue : u.env.epoch = s.env.epoch := by rw [hregs]
    obtain ⟨f, hf⟩ := blockStep_stream hop k u
    obtain ⟨hbits, hextra⟩ := hstep k (by omega) u hframe hx hue
    have hsucc : k * c.OB + c.OB = (k + 1) * c.OB := by rw [Nat.add_mul]; omega
    have hmem : (blockStep c k u).mem = (u.setBufBits c.dst (k * c.OB) c.OB f).mem := by rw [hf]; rfl
    have hep : (blockStep c k u).env.epoch = u.env.epoch := by rw [hf]
    have hstepEq := sequencerStep_block hlc hua
    rw [hub] at hstepEq
    have hblk : ((blockStep c k u).countBlock c).blocks.toNat = k + 1 := by
      simp only [State.countBlock_blocks, blockStep_blocks]
      rw [BitVec.toNat_add, hub]; simp; omega
    rw [hblk] at hstepEq
    -- what the memory of the next state is
    have memEq : (sequencerStep u).mem = (blockStep c k u).mem := by rw [hstepEq]; split <;> rfl
    have envEq : (sequencerStep u).env = (blockStep c k u).env := by rw [hstepEq]; split <;> rfl
    have flipsEq : (sequencerStep u).flips = (blockStep c k u).flips := by rw [hstepEq]; split <;> rfl
    have bitEq : ∀ i, (sequencerStep u).bufBit c.dst i = (blockStep c k u).bufBit c.dst i :=
      State.bufBit_congr memEq (by rw [envEq]) c.dst
    have bitOld : ∀ i, i < k * c.OB → (blockStep c k u).bufBit c.dst i = u.bufBit c.dst i := by
      intro i hi
      rw [State.bufBit_congr hmem hep, State.bufBit_setBufBits, if_neg (by omega)]
    refine ⟨⟨?_, ?_, ?_⟩, hextra _ flipsEq envEq⟩
    · have henv : (sequencerStep u).env = { s.env with
          port := (sequencerStep u).env.port, drawn := (sequencerStep u).env.drawn } := by
        rw [envEq, hf]
        simp only
        rw [hregs]
      have hob : BitVec.ofNat 32 k + 1#32 = BitVec.ofNat 32 (k + 1) := by
        apply BitVec.eq_of_toNat_eq; simp
      have hoo : BitVec.ofNat 32 (k * c.OB) + BitVec.ofNat 32 c.OB = BitVec.ofNat 32 ((k + 1) * c.OB) := by
        apply BitVec.eq_of_toNat_eq; simp [← hsucc]
      have hfields : (sequencerStep u) = { (sequencerStep u) with env := { s.env with
          port := (sequencerStep u).env.port, drawn := (sequencerStep u).env.drawn } } := by
        rw [← henv]
      rw [hfields]
      have e : ∀ v : State, v = (if k + 1 = c.T then ((blockStep c k u).countBlock c).complete false
          else (blockStep c k u).countBlock c) →
          { v with env := { s.env with port := v.env.port, drawn := v.env.drawn } } =
          { s with
            blocks := BitVec.ofNat 32 (k + 1), outlen := BitVec.ofNat 32 ((k + 1) * c.OB)
            lc := if k + 1 = c.T then none else some c
            done := decide (k + 1 = c.T)
            flips := v.flips, mem := v.mem
            env := { s.env with port := v.env.port, drawn := v.env.drawn } } := by
        intro v hv
        by_cases hl : k + 1 = c.T
        · rw [if_pos hl] at hv
          subst hv
          rw [hf, hregs]
          simp [State.countBlock, State.complete, State.putBlock, State.setBufBits, State.putBytes, hl,
            hob, hoo, ha, hab]
        · rw [if_neg hl] at hv
          subst hv
          rw [hf, hregs]
          simp [State.countBlock, State.putBlock, State.setBufBits, State.putBytes, hl, hkT, hob, hoo]
      exact e _ hstepEq
    · intro b hb j hj
      rw [bitEq]
      by_cases hbk : b = k
      · subst hbk; exact hbits j hj
      · rw [bitOld _ (block_apart (by omega) hj)]
        exact hout b (by omega) j hj
    · rw [← hsucc]
      exact hframe.step (by rw [memEq, hmem]) (by rw [envEq, hep]) rfl (by omega)

/-! ### From the issue to the end -/

/-- The run of an accepted stream command from its issue to its completion, in an idle machine (R200, R201): with
`out` and `extra` as in `sequencerRun_stream`. It covers the command that has no block. -/
theorem issue_stream_run {c : Latched} {s : State} {out : Nat → Nat → Bool} {extra : Nat → State → Prop}
    (hb : s.busy = false) (hop : c.op ≠ .build) (hT : c.T ≤ 65536) (hO : c.T * c.OB ≤ 65536)
    (h0 : ∀ v : State, v.env = s.env → v.flips = (if c.op = .transmit then 0#32 else s.flips) → extra 0 v)
    (hstep : ∀ k < c.T, ∀ u, OnlyStream c.dst (k * c.OB) s u → extra k u → u.env.epoch = s.env.epoch →
      (∀ j < c.OB, (blockStep c k u).bufBit c.dst (k * c.OB + j) = out k j) ∧
      ∀ v, v.flips = (blockStep c k u).flips → v.env = (blockStep c k u).env → extra (k + 1) v) :
    Completed c.T c.OB (sequencerRun c.T (s.issue (.ok c))) ∧
    (∀ b < c.T, ∀ j < c.OB, (sequencerRun c.T (s.issue (.ok c))).bufBit c.dst (b * c.OB + j) = out b j) ∧
    OnlyStream c.dst (c.T * c.OB) s (sequencerRun c.T (s.issue (.ok c))) ∧
    StreamFrame s (sequencerRun c.T (s.issue (.ok c))) ∧ extra c.T (sequencerRun c.T (s.issue (.ok c))) := by
  by_cases hT0 : c.T = 0
  · have hu : sequencerRun c.T (s.issue (.ok c)) = s.beginIssue.accept c := by rw [hT0, issue_ok hb]; rfl
    rw [accept_empty _ hT0] at hu
    rw [hu, hT0]
    exact ⟨⟨rfl, rfl, rfl, rfl, rfl, rfl, by simp⟩, fun b hb => absurd hb (by omega),
      ⟨fun _ _ _ _ => rfl, fun _ _ _ => rfl⟩,
      ⟨⟨rfl, rfl, rfl, rfl, rfl, rfl, rfl⟩, ⟨rfl, rfl⟩, ⟨rfl, rfl, rfl, rfl, rfl⟩, rfl, rfl, rfl, rfl⟩, h0 _ rfl rfl⟩
  · have ht : s.issue (.ok c) = { s.beginIssue with
        err := .none, done := false, abortPending := false,
        flips := if c.op = .transmit then 0#32 else s.flips, lc := some c } := by
      rw [issue_ok hb, accept_running _ hT0]; rfl
    generalize s.issue (.ok c) = t at ht
    have hbyte : ∀ a, t.byteAt a = s.byteAt a := fun a => by rw [ht]; rfl
    have hbit : ∀ b i, t.bufBit b i = s.bufBit b i := fun b i => by rw [ht]; rfl
    have hm : ∀ b len v, OnlyStream b len t v ↔ OnlyStream b len s v := fun b len v =>
      ⟨fun h => ⟨fun a h1 h2 h3 => (h.otherBytes a h1 h2 h3).trans (hbyte a),
          fun i h1 h2 => (h.otherBits i h1 h2).trans (hbit b i)⟩,
        fun h => ⟨fun a h1 h2 h3 => (h.otherBytes a h1 h2 h3).trans (hbyte a).symm,
          fun i h1 h2 => (h.otherBits i h1 h2).trans (hbit b i).symm⟩⟩
    obtain ⟨⟨hr, hout, hfr⟩, hx⟩ := sequencerRun_stream (c := c) (s := t) (out := out) (extra := extra)
      (by rw [ht]) hop hT hT0 hO (by rw [ht]) (by rw [ht]; rfl) (by rw [ht]) (by rw [ht]; rfl) (by rw [ht]; rfl)
      (h0 t (by rw [ht]; rfl) (by rw [ht]))
      (fun k hk v hv hx he => hstep k hk v ((hm _ _ _).mp hv) hx (by rw [he, ht]; rfl)) c.T le_rfl
    generalize sequencerRun c.T t = u at hr hout hfr hx
    have hlc : u.lc = none := by rw [hr]; exact if_pos rfl
    have hdone : u.done = true := by rw [hr]; exact decide_eq_true rfl
    have hblocks : u.blocks = BitVec.ofNat 32 c.T := by rw [hr]
    have houtlen : u.outlen = BitVec.ofNat 32 (c.T * c.OB) := by rw [hr]
    refine ⟨⟨by simp [State.busy_eq, hlc], hdone, ?_, ?_, ?_, by simp [hblocks]; omega, by simp [houtlen]; omega⟩,
      hout, (hm _ _ _).mp hfr,
      ⟨⟨?_, ?_, ?_, ?_, ?_, ?_, ?_⟩, ⟨?_, ?_⟩, ⟨?_, ?_, ?_, ?_, ?_⟩, ?_, ?_, ?_, ?_⟩, hx⟩
    all_goals first
      | (rw [hr, ht]; done)
      | (rw [hr, ht]; rfl)

/-- The run of an accepted stream command that takes no draws (R38, R151): `out` is its output. -/
theorem issue_quiet_run {c : Latched} {s : State} {out : Nat → Nat → Bool} (hb : s.busy = false)
    (hop : c.op ≠ .build) (hop' : c.op ≠ .transmit) (hT : c.T ≤ 65536) (hO : c.T * c.OB ≤ 65536)
    (hstep : ∀ k < c.T, ∀ u, OnlyStream c.dst (k * c.OB) s u → u.env.epoch = s.env.epoch →
      ∀ j < c.OB, (blockStep c k u).bufBit c.dst (k * c.OB + j) = out k j) :
    Completed c.T c.OB (sequencerRun c.T (s.issue (.ok c))) ∧
    (∀ b < c.T, ∀ j < c.OB, (sequencerRun c.T (s.issue (.ok c))).bufBit c.dst (b * c.OB + j) = out b j) ∧
    OnlyStream c.dst (c.T * c.OB) s (sequencerRun c.T (s.issue (.ok c))) ∧
    StreamFrame s (sequencerRun c.T (s.issue (.ok c))) ∧ NoDraws s (sequencerRun c.T (s.issue (.ok c))) := by
  refine issue_stream_run (extra := fun _ => NoDraws s) hb hop hT hO ?_ ?_
  · intro v h1 h2
    rw [if_neg hop'] at h2
    exact ⟨by rw [h1], by rw [h1], h2⟩
  · intro k hk u hu hx he
    refine ⟨hstep k hk u hu he, fun v h1 h2 => ?_⟩
    have hn := blockStep_noDraws hop' k u
    rw [hn.1] at h1
    rw [hn.2] at h2
    exact ⟨by rw [h2]; exact hx.port, by rw [h2]; exact hx.drawn, by rw [h1]; exact hx.flips⟩

/-- The source of block `k` is still as it was at the issue: the command writes only its other buffer (R71, R94). -/
theorem srcBit_of_onlyStream {c : Latched} {s u : State} {k i : Nat} (hsd : c.src ≠ c.dst) (hk : k < c.T)
    (hI : c.T * c.IB ≤ 65536) (hO : c.T * c.OB ≤ 65536) (h : OnlyStream c.dst (k * c.OB) s u) (hi : i < c.IB) :
    u.srcBit c k i = s.bufBit c.src (k * c.IB + i) := by
  have h1 := block_end_le hk hO
  have h2 := block_end_le hk hI
  exact h.bufBit_other hsd (by omega) (by omega)

/-- The bits of a written output block (R67). -/
theorem bufBit_putBlock (u : State) (c : Latched) (k : Nat) (f : Nat → Bool) {j : Nat} (hj : j < c.OB) :
    (u.putBlock c k f).bufBit c.dst (k * c.OB + j) = f j := by
  unfold State.putBlock
  rw [State.bufBit_setBufBits, if_pos (by omega)]
  congr 1
  omega

theorem div_mul_le_bound {b : Nat} (a : Nat) (h : b ≤ 65536) : b / a * a ≤ 65536 :=
  (Nat.div_mul_le_self b a).trans h

/-- The run of an accepted stream command that takes no draws, from its issue to its completion, in the terms of its
block step: where the source block and GRAM read as at the issue, block step `k` writes the block `out k`. -/
theorem issue_block_run {c : Latched} {s : State} {src dst : Buf} {T IB OB : Nat} {out : Nat → Nat → Bool}
    (hb : s.busy = false) (hop : c.op ≠ .build) (hop' : c.op ≠ .transmit) (hsrc : c.src = src) (hdst : c.dst = dst)
    (hcT : c.T = T) (hcI : c.IB = IB) (hcO : c.OB = OB) (hsd : src ≠ dst) (hT : T ≤ 65536) (hI : T * IB ≤ 65536)
    (hO : T * OB ≤ 65536)
    (hblock : ∀ k < T, ∀ u : State, (∀ i < IB, u.srcBit c k i = s.bufBit src (k * IB + i)) →
      (∀ i < 256, ∀ j < 256, u.gBit i j = s.gBit i j) →
      ∃ f, blockStep c k u = u.putBlock c k f ∧ ∀ j < OB, f j = out k j) :
    Completed T OB (sequencerRun T (s.issue (.ok c))) ∧
    (∀ b < T, ∀ j < OB, (sequencerRun T (s.issue (.ok c))).bufBit dst (b * OB + j) = out b j) ∧
    OnlyStream dst (T * OB) s (sequencerRun T (s.issue (.ok c))) ∧
    StreamFrame s (sequencerRun T (s.issue (.ok c))) ∧ NoDraws s (sequencerRun T (s.issue (.ok c))) := by
  subst hsrc hdst hcT hcI hcO
  refine issue_quiet_run hb hop hop' hT hO ?_
  intro k hk u hu _ j hj
  have hend := block_end_le hk hO
  obtain ⟨f, hf, ho⟩ := hblock k hk u (fun i hi => srcBit_of_onlyStream hsd hk hI hO hu hi)
    (fun i hi j hj => hu.gBit (by omega) hi hj)
  rw [hf, bufBit_putBlock _ _ _ _ hj, ho j hj]

end Sys2Proof.Machine
end

