-- ==== Sys2Proof/Tests/Slice0.lean ====
section
/-! SUPPORT. The model's own tests: ill-formed commands are refused, words written out from the spec's encoding decode
to what they stand for, one step per command against the vectors of spec/95_test_vectors.md, and for every obligation
with hypotheses a witness that meets them. -/

namespace Sys2Proof.Tests

open Sys2Proof.Machine

/-! ### Well-formedness: SRC = DST is refused in every stream command (R94) -/

theorem test_encode_one_buffer : (Instr.encode .buf0 .buf0).wf = false := by decide
theorem test_matvec_one_buffer : (Instr.matvec .buf1 .buf1).wf = false := by decide
theorem test_transmit_one_buffer : (Instr.transmit .buf0 .buf0).wf = false := by decide
theorem test_decode_one_buffer : (Instr.decode .buf1 .buf1).wf = false := by decide
theorem test_interleave_one_buffer : (Instr.interleave .buf0 .buf0).wf = false := by decide
theorem test_deinterleave_one_buffer : (Instr.deinterleave .buf1 .buf1).wf = false := by decide
theorem test_checks_one_buffer : (Instr.checks .buf0 .buf0).wf = false := by decide
theorem test_build_ignores_buffers : (Instr.build .buf0 .buf0).wf = true := by decide

/-! ### Words of every family, bit by bit from R90 and R92: [31:6] = 0, DST, SRC, OP -/

theorem test_word_build : decodeCW 0b00000000000000000000000000110001#32 = .ok (.build .buf1 .buf1) := by decide
theorem test_word_encode : decodeCW 0b00000000000000000000000000100010#32 = .ok (.encode .buf0 .buf1) := by decide
theorem test_word_matvec : decodeCW 0b00000000000000000000000000010011#32 = .ok (.matvec .buf1 .buf0) := by decide
theorem test_word_transmit : decodeCW 0b00000000000000000000000000100100#32 = .ok (.transmit .buf0 .buf1) := by decide
theorem test_word_decode : decodeCW 0b00000000000000000000000000010101#32 = .ok (.decode .buf1 .buf0) := by decide
theorem test_word_interleave :
    decodeCW 0b00000000000000000000000000100110#32 = .ok (.interleave .buf0 .buf1) := by decide
theorem test_word_deinterleave :
    decodeCW 0b00000000000000000000000000010111#32 = .ok (.deinterleave .buf1 .buf0) := by decide
theorem test_word_checks : decodeCW 0b00000000000000000000000000101000#32 = .ok (.checks .buf0 .buf1) := by decide
theorem test_word_reserved_op :
    decodeCW 0x00000000#32 = .error .reservedOp ∧ decodeCW 0x00000009#32 = .error .reservedOp ∧
    decodeCW 0x0000000F#32 = .error .reservedOp := by decide
theorem test_word_reserved_bit :
    decodeCW 0x00000062#32 = .error .reservedBits ∧ decodeCW 0x80000022#32 = .error .reservedBits := by decide
theorem test_word_same_buffer :
    decodeCW 0x00000002#32 = .error .sameBuffer ∧ decodeCW 0x00000034#32 = .error .sameBuffer := by decide
theorem test_bytes_are_little_endian : encodeBytes (.encode .buf0 .buf1) = [0x22#8, 0#8, 0#8, 0#8] := by decide
theorem test_truncated_word : decodeBytes [0x22#8, 0#8, 0#8] = .error .truncated := by rfl

/-! ### Small states -/

/-- An idle block with RM(1, 3) built, its four generator rows in GRAM, message 0xD and codeword 0xC3 in the buffers
(V-SRC-1). -/
def idle13 : State :=
  { State.reset with
    built := true, BR := 1#4, BM := 3#4, K := 4#16, N := 8#16, grows := 4#16, gcols := 8#16, cfgM := 3#4, cfgR := 1#4
    len := 4#32, irows := 2#16, icols := 2#16
    mem := [(0x4000, 0x0D#8), (0x6000, 0xC3#8), (0x8000, 0xFF#8), (0x8020, 0xAA#8), (0x8040, 0xCC#8), (0x8060, 0xF0#8)] }

/-- The same block while a command runs, at its first block. -/
def running (c : Latched) : State := { idle13 with lc := some c }

/-- A running TRANSMIT of two bits from BUF0 to BUF1 at PE = 0x8000. -/
def sending : Latched := { latch .transmit .buf0 .buf1 2 1 1 with pe := 0x8000#32 }

/-- A running BUILD of RM(1, 3). -/
def building : Latched := { latch .build .buf0 .buf0 1 0 0 with r := 1#4, m := 3#4 }

/-- A running ENCODE of one block from BUF0 to BUF1. -/
def encoding : Latched :=
  { latch .encode .buf0 .buf1 1 4 8 with r := 1#4, m := 3#4, K := 4#16, N := 8#16, grows := 4#16, gcols := 8#16 }

/-- A running MATVEC of one block with the 2 × 3 matrix of V-MV. -/
def multiplying : Latched := { latch .matvec .buf0 .buf1 1 4 8 with grows := 4#16, gcols := 8#16 }

/-! ### One step of each command against spec/95_test_vectors.md -/

/-- ENCODE of 1011 with RM(1, 3) gives 0xC3 (V-SRC-7). -/
theorem test_encode_block : (sequencerStep (running encoding)).byteAt 0x6000 = 0xC3#8 := by decide +kernel

/-- ENCODE with a length that is no multiple of K fails with LengthMismatch, STATUS = 0x206 (V-SRC-6). -/
theorem test_encode_length :
    (idle13.issue (encodeChecks .buf0 .buf1 { idle13 with len := 5#32 })).statusWord = 0x206#32 := by decide +kernel

/-- MATVEC with the declared shape (4, 8) is the same sum of GRAM rows: 0xD selects 0xFF, 0xCC and 0xF0 (R130). -/
theorem test_matvec_block : (sequencerStep (running multiplying)).byteAt 0x6000 = 0xC3#8 := by decide +kernel

/-- MATVEC with GSHAPE = 0 fails with DimensionMismatch, STATUS = 0x306 on a built block (R131). -/
theorem test_matvec_shape :
    (idle13.issue (matvecChecks .buf0 .buf1 { idle13 with grows := 0#16 })).statusWord = 0x306#32 := by decide +kernel

/-- TRANSMIT with draw 0x7FFF below PE = 0x8000 flips bit 0 of 0xD, and FLIPS counts it (R152). -/
theorem test_transmit_flips :
    let t := sequencerStep { running sending with env := { State.reset.env with port := [0x7FFF#16] } }
    t.bufBit .buf1 0 = false ∧ t.flips = 1#32 ∧ t.env.port = [] := by decide +kernel

/-- TRANSMIT with draw 0x8000 not below PE = 0x8000 copies bit 0 (R152). -/
theorem test_transmit_copies :
    let t := sequencerStep { running sending with env := { State.reset.env with port := [0x8000#16] } }
    t.bufBit .buf1 0 = true ∧ t.flips = 0#32 := by decide +kernel

/-- DECODE of 0xC2, one flip from 0xC3, gives 1011 = 0xD in the low four bits (V-SRC-7). -/
theorem test_decode_block :
    let c := { latch .decode .buf1 .buf0 1 8 4 with r := 1#4, m := 3#4, K := 4#16, N := 8#16 }
    (sequencerStep { running c with mem := [(0x4000, 0x00#8), (0x6000, 0xC2#8)] }).byteAt 0x4000 = 0x0D#8 := by
  decide +kernel

/-- A tied vote gives 0: DECODE of 0xDB with RM(1, 3) gives 1000 = 0x1 (V-SRC-7, R169). -/
theorem test_decode_tie :
    let c := { latch .decode .buf1 .buf0 1 8 4 with r := 1#4, m := 3#4, K := 4#16, N := 8#16 }
    (sequencerStep { running c with mem := [(0x4000, 0x00#8), (0x6000, 0xDB#8)] }).byteAt 0x4000 = 0x01#8 := by
  decide +kernel

/-- CHECKS of 0xC2 with RM(1, 3) gives the 12 bits 0xEE1 (V-SRC-7). -/
theorem test_checks_block :
    let c := { latch .checks .buf1 .buf0 1 8 12 with r := 1#4, m := 3#4, K := 4#16, N := 8#16 }
    let t := sequencerStep { running c with mem := [(0x4000, 0x00#8), (0x4001, 0x00#8), (0x6000, 0xC2#8)] }
    t.byteAt 0x4000 = 0xE1#8 ∧ t.byteAt 0x4001 = 0x0E#8 := by
  decide +kernel

/-- INTERLEAVE of a 2 × 3 frame: 0x07 becomes 0x15 (R190, R191). -/
theorem test_interleave_block :
    let c := { latch .interleave .buf0 .buf1 1 6 6 with irows := 2#16, icols := 3#16 }
    (sequencerStep { running c with mem := [(0x4000, 0x07#8), (0x6000, 0x00#8)] }).byteAt 0x6000 = 0x15#8 := by
  decide +kernel

/-- DEINTERLEAVE of a 2 × 3 frame: 0x15 becomes 0x07 (R192). -/
theorem test_deinterleave_block :
    let c := { latch .deinterleave .buf0 .buf1 1 6 6 with irows := 2#16, icols := 3#16 }
    (sequencerStep { running c with mem := [(0x4000, 0x15#8), (0x6000, 0x00#8)] }).byteAt 0x6000 = 0x07#8 := by
  decide +kernel

/-- BUILD with M = 9 or R > M fails with InvalidParameter (V-SRC-9). -/
theorem test_build_invalid :
    (State.reset.issue (buildChecks { State.reset with cfgM := 9#4 })).statusWord = 0x104#32 ∧
    (State.reset.issue (buildChecks { State.reset with cfgM := 3#4, cfgR := 4#4 })).statusWord = 0x104#32 := by
  decide +kernel

/-- BUILD of RM(2, 4) has K = 11 and N = 16, and row 5 of RM(2, 3) is the product x1 x3 = 0xA0 (V-BLD, R113, R114). -/
theorem test_build_rows :
    codeDim 2 4 = 11 ∧ codeLen 4 = 16 ∧
    (List.range 8).map (builtEntry 2 3 5) = [false, false, false, false, false, true, false, true] := by
  decide +kernel

/-- A host write of 0x12345678 puts 0x78 at the lowest address (R66). -/
theorem test_word_write_is_little_endian :
    let t := State.reset.putWord 0x4000 0x12345678#32
    t.byteAt 0x4000 = 0x78#8 ∧ t.byteAt 0x4003 = 0x12#8 ∧ t.wordAt 0x4000 = 0x12345678#32 := by decide +kernel

/-- PADCNT after BUILD of RM(1, 3): LEN = 6 gives 2, 7 gives 1, 8 gives 0, 0 gives 0 (V-SRC-4). -/
theorem test_padding :
    [6, 7, 8, 0].map (fun l => { idle13 with len := BitVec.ofNat 32 l }.padCount) = [2, 1, 0, 0] := by decide +kernel

/-! ### States of the witnesses -/

/-- The state of an idle block meets the invariant when its plain facts hold. -/
theorem inv_of_idle {s : State} (h : s.lc = none) (hm : s.mem.wf)
    (hn : s.built = false → s.K = 0#16 ∧ s.N = 0#16 ∧ s.BR = 0#4 ∧ s.BM = 0#4)
    (hb : s.built = true → s.BR.toNat ≤ s.BM.toNat ∧ s.BM.toNat ≤ 8 ∧
      s.K.toNat = codeDim s.BR.toNat s.BM.toNat ∧ s.N.toNat = codeLen s.BM.toNat)
    (ha : s.abortPending = false) (hd : s.aborted = true → s.err = .none) (hf : s.flips.toNat ≤ 65536) : s.Inv :=
  ⟨hm, hn, hb, fun c hc => by simp [h] at hc, by simp [ha], hd, hf⟩

theorem reset_inv : State.reset.Inv :=
  inv_of_idle rfl (by decide) (by decide) (by decide) rfl (by decide) (by decide)

theorem idle13_inv : idle13.Inv :=
  inv_of_idle rfl (by decide) (by decide) (by decide) rfl (by decide) (by decide)

/-- Any other LEN, PE, ILV, shape or CFG keeps the invariant of the idle block. -/
theorem idle13_regs_inv (len pe : Word) (irows icols grows gcols : BitVec 16) (cfgM cfgR : BitVec 4) :
    { idle13 with len := len, pe := pe, irows := irows, icols := icols, grows := grows, gcols := gcols, cfgM := cfgM,
                  cfgR := cfgR : State }.Inv :=
  inv_of_idle rfl idle13_inv.memory idle13_inv.notBuilt idle13_inv.isBuilt rfl idle13_inv.aborted idle13_inv.flips

/-- A running command that fits meets the invariant, with or without an abort request. -/
theorem running_inv {c : Latched} (h : (running c).Running c) (a : Bool) :
    { running c with abortPending := a : State }.Inv :=
  ⟨idle13_inv.memory, idle13_inv.notBuilt, idle13_inv.isBuilt,
    fun d hd => by cases hd; exact ⟨⟨h.fits, h.next, h.count, h.input, h.output, h.outlen, h.buffers, h.flips⟩, rfl, rfl, rfl⟩,
    fun _ => rfl, idle13_inv.aborted, idle13_inv.flips⟩

theorem sending_running : (running sending).Running sending :=
  ⟨⟨rfl, rfl, by decide⟩, by decide, by decide, by decide, by decide, by decide, by decide, by decide⟩

theorem building_running : (running building).Running building :=
  ⟨⟨rfl, rfl, rfl, by decide, by decide⟩, by decide, by decide, by decide, by decide, by decide, by decide, by decide⟩

theorem encoding_running : (running encoding).Running encoding :=
  ⟨⟨rfl, rfl⟩, by decide, by decide, by decide, by decide, by decide, by decide, by decide⟩

theorem multiplying_running : (running multiplying).Running multiplying :=
  ⟨⟨rfl, rfl, by decide, by decide, by decide⟩, by decide, by decide, by decide, by decide, by decide, by decide,
    by decide⟩

/-! ### Witnesses: for each obligation with hypotheses, inputs that meet them all, each clause at its boundary -/

theorem witness_OnlyListedWordsAreLegal : (0x00000029#32 : Word) ∉ listedWords.map (·.1) := by decide

theorem witness_DecodeAndEncodeAgree : (Instr.encode .buf0 .buf1).wf = true := by decide

theorem witness_IllegalWordsCompleteAtIssue :
    State.reset.busy = false ∧ illegalWord 0x00000041#32 ∧ illegalWord 0xFFFFFFFF#32 ∧ illegalWord 0x00000000#32 ∧
    illegalWord 0x00000009#32 ∧ illegalWord 0x0000000F#32 ∧ illegalWord 0x00000002#32 ∧ illegalWord 0x00000038#32 := by
  refine ⟨rfl, ?_⟩
  unfold illegalWord
  decide

theorem witness_StreamCommandsNeedTwoBuffers :
    State.reset.busy = false ∧ (Instr.checks .buf1 .buf1).wf = false := by decide

theorem witness_StepRunsTheDecodedCommand :
    let s := State.reset.withInputs [.write .word cmdAddr 0x22#32, .sequencer]
    s.env.inputs = .write .word cmdAddr 0x22#32 :: [.sequencer] ∧
    decodeCW 0x22#32 = .ok (.encode .buf0 .buf1) ∧ decodeTableWord 32 0x22 = some (.encode .buf0 .buf1) := by decide

theorem witness_StepFollowsItsInputs :
    State.reset.env.inputs = [] ∧ State.reset.busy = false ∧
    ∀ e ∈ [Input.read .word 0x24#16, .write .byte 0x21#16 1#32, .sequencer, .reset],
      (State.reset.withInputs [e]).env.inputs = e :: [] := by decide

theorem witness_CommandWhileBusyIsDropped :
    (running sending).busy = true ∧
    let s := (running sending).withInputs [.write .word cmdAddr 0x22#32]
    ∃ t, step s = .next t ∧ s.dropped = false ∧ t.dropped = true := ⟨rfl, _, rfl, rfl, rfl⟩

/-- One idle state and command for each of the six codes of R206. -/
theorem witness_FirstErrorIsReported :
    (State.reset.Inv ∧ State.reset.busy = false ∧ firstError (.encode .buf0 .buf0) State.reset = some .illegalCommand ∧
      firstError (.decode .buf0 .buf1) State.reset = some .notBuilt ∧
      firstError (.matvec .buf0 .buf1) State.reset = some .dimensionMismatch) ∧
    (let s := { idle13 with len := 65537#32, pe := 65537#32, irows := 2#16, icols := 2#16, grows := 257#16,
                            gcols := 8#16, cfgM := 9#4, cfgR := 1#4 : State }
     s.Inv ∧ s.busy = false ∧ firstError (.build .buf0 .buf0) s = some .invalidParameter ∧
      firstError (.transmit .buf0 .buf1) s = some .invalidParameter ∧
      firstError (.matvec .buf0 .buf1) s = some .dimensionMismatch ∧
      firstError (.decode .buf0 .buf1) s = some .lengthMismatch) ∧
    (let s := { idle13 with len := 65540#32, pe := 65536#32, irows := 2#16, icols := 2#16, grows := 4#16,
                            gcols := 8#16, cfgM := 3#4, cfgR := 1#4 : State }
     s.Inv ∧ s.busy = false ∧ firstError (.transmit .buf0 .buf1) s = some .capacity ∧
      firstError (.interleave .buf0 .buf1) s = some .capacity) :=
  ⟨⟨reset_inv, by decide⟩, ⟨idle13_regs_inv _ _ _ _ _ _ _ _, by decide⟩, ⟨idle13_regs_inv _ _ _ _ _ _ _ _, by decide⟩⟩

/-- A command with no block, and commands with some. -/
theorem witness_AcceptedIssueLatchesTheCommand :
    (State.reset.Inv ∧ State.reset.busy = false ∧ firstError (.transmit .buf0 .buf1) State.reset = none ∧
      blockCount (.transmit .buf0 .buf1) State.reset = 0 ∧ firstError (.build .buf0 .buf0) State.reset = none ∧
      blockCount (.build .buf0 .buf0) State.reset ≠ 0) ∧
    idle13.Inv ∧ idle13.busy = false ∧ firstError (.encode .buf0 .buf1) idle13 = none ∧
      firstError (.matvec .buf0 .buf1) idle13 = none ∧ firstError (.interleave .buf0 .buf1) idle13 = none ∧
      firstError (.deinterleave .buf0 .buf1) idle13 = none ∧
      blockCount (.encode .buf0 .buf1) idle13 = 1 ∧
    let s := { idle13 with len := 8#32, pe := 0#32, irows := 2#16, icols := 2#16, grows := 4#16, gcols := 8#16,
                           cfgM := 3#4, cfgR := 1#4 : State }
    s.Inv ∧ s.busy = false ∧ firstError (.decode .buf0 .buf1) s = none ∧ firstError (.checks .buf0 .buf1) s = none :=
  ⟨⟨reset_inv, by decide⟩, idle13_inv, by decide, by decide, by decide, by decide, by decide, by decide,
    idle13_regs_inv _ _ _ _ _ _ _ _, by decide⟩

theorem witness_AbortEndsTheCommand :
    let s := { running sending with abortPending := true : State }
    s.busy = true ∧ s.abortPending = true := by decide

/-- A command at its last block and one with a block left. -/
theorem witness_SequencerStepCountsBlocks :
    ((running encoding).Inv ∧ (running encoding).lc = some encoding ∧ (running encoding).abortPending = false ∧
      (running encoding).blocks.toNat + 1 = encoding.T) ∧
    (running sending).Inv ∧ (running sending).lc = some sending ∧ (running sending).abortPending = false ∧
      (running sending).blocks.toNat + 1 ≠ sending.T :=
  ⟨⟨running_inv encoding_running false, rfl, rfl, rfl⟩, running_inv sending_running false, rfl, rfl, by decide⟩

theorem witness_CommandEndsWithinItsBlocks :
    (running sending).Inv ∧ (running sending).lc = some sending ∧
      sending.T - (running sending).blocks.toNat ≤ 2 ∧ 65536 ≤ 65536 :=
  ⟨running_inv sending_running false, rfl, by decide, le_refl _⟩

/-- The smallest and the largest code. -/
theorem witness_BuildRunsToCompletion :
    (State.reset.busy = false ∧ State.reset.cfgM.toNat ≤ 8 ∧ State.reset.cfgR.toNat ≤ State.reset.cfgM.toNat) ∧
    let s := { State.reset with cfgM := 8#4, cfgR := 8#4 : State }
    s.busy = false ∧ s.cfgM.toNat ≤ 8 ∧ s.cfgR.toNat ≤ s.cfgM.toNat := by decide

/-- The longest message of RM(1, 3) that fits, 8192 blocks of 4 bits. -/
theorem witness_EncodeRunsToCompletion :
    let s := { idle13 with len := 32768#32, pe := 0#32, irows := 2#16, icols := 2#16, grows := 4#16, gcols := 8#16,
                           cfgM := 3#4, cfgR := 1#4 : State }
    s.Inv ∧ s.busy = false ∧ Buf.buf0 ≠ Buf.buf1 ∧ s.built = true ∧ s.grows = s.K ∧ s.gcols = s.N ∧
    s.len.toNat % s.K.toNat = 0 ∧ s.len.toNat ≤ 65536 ∧ s.len.toNat / s.K.toNat * s.N.toNat ≤ 65536 :=
  ⟨idle13_regs_inv _ _ _ _ _ _ _ _, by decide⟩

/-- The smallest and the largest shape. -/
theorem witness_MatvecRunsToCompletion :
    (let s := { State.reset with grows := 1#16, gcols := 1#16, len := 65536#32 : State }
     s.busy = false ∧ Buf.buf0 ≠ Buf.buf1 ∧ 1 ≤ s.grows.toNat ∧ s.grows.toNat ≤ 256 ∧ 1 ≤ s.gcols.toNat ∧
     s.gcols.toNat ≤ 256 ∧ s.len.toNat % s.grows.toNat = 0 ∧ s.len.toNat ≤ 65536 ∧
     s.len.toNat / s.grows.toNat * s.gcols.toNat ≤ 65536) ∧
    let s := { State.reset with grows := 256#16, gcols := 256#16, len := 65536#32 : State }
    s.busy = false ∧ Buf.buf0 ≠ Buf.buf1 ∧ 1 ≤ s.grows.toNat ∧ s.grows.toNat ≤ 256 ∧ 1 ≤ s.gcols.toNat ∧
    s.gcols.toNat ≤ 256 ∧ s.len.toNat % s.grows.toNat = 0 ∧ s.len.toNat ≤ 65536 ∧
    s.len.toNat / s.grows.toNat * s.gcols.toNat ≤ 65536 := by decide

theorem witness_TransmitRunsToCompletion :
    let s := { State.reset with pe := 65536#32, len := 65536#32 : State }
    s.busy = false ∧ Buf.buf1 ≠ Buf.buf0 ∧ s.pe.toNat ≤ 65536 ∧ s.len.toNat ≤ 65536 := by decide

theorem witness_DecodeRunsToCompletion :
    let s := { idle13 with len := 65536#32, pe := 0#32, irows := 2#16, icols := 2#16, grows := 0#16, gcols := 0#16,
                           cfgM := 3#4, cfgR := 1#4 : State }
    s.Inv ∧ s.busy = false ∧ Buf.buf0 ≠ Buf.buf1 ∧ s.built = true ∧ s.len.toNat % s.N.toNat = 0 ∧
    s.len.toNat ≤ 65536 :=
  ⟨idle13_regs_inv _ _ _ _ _ _ _ _, by decide⟩

/-- The smallest frame, and the largest two sides that make a frame of a whole buffer. -/
theorem witness_InterleaveRunsToCompletion :
    (let s := { State.reset with irows := 1#16, icols := 1#16, len := 65536#32 : State }
     s.busy = false ∧ Buf.buf0 ≠ Buf.buf1 ∧ s.irows ≠ 0#16 ∧ s.icols ≠ 0#16 ∧
     s.len.toNat % (s.irows.toNat * s.icols.toNat) = 0 ∧ s.len.toNat ≤ 65536) ∧
    let s := { State.reset with irows := 32768#16, icols := 2#16, len := 65536#32 : State }
    s.busy = false ∧ Buf.buf0 ≠ Buf.buf1 ∧ s.irows ≠ 0#16 ∧ s.icols ≠ 0#16 ∧
    s.len.toNat % (s.irows.toNat * s.icols.toNat) = 0 ∧ s.len.toNat ≤ 65536 := by decide

theorem witness_DeinterleaveRunsToCompletion :
    (let s := { State.reset with irows := 1#16, icols := 1#16, len := 65536#32 : State }
     s.busy = false ∧ Buf.buf1 ≠ Buf.buf0 ∧ s.irows ≠ 0#16 ∧ s.icols ≠ 0#16 ∧
     s.len.toNat % (s.irows.toNat * s.icols.toNat) = 0 ∧ s.len.toNat ≤ 65536) ∧
    let s := { State.reset with irows := 2#16, icols := 32768#16, len := 65536#32 : State }
    s.busy = false ∧ Buf.buf1 ≠ Buf.buf0 ∧ s.irows ≠ 0#16 ∧ s.icols ≠ 0#16 ∧
    s.len.toNat % (s.irows.toNat * s.icols.toNat) = 0 ∧ s.len.toNat ≤ 65536 := by decide

/-- 5461 codewords of RM(1, 3) give 65532 checks, the most that fit. -/
theorem witness_ChecksRunsToCompletion :
    let s := { idle13 with len := 43688#32, pe := 0#32, irows := 2#16, icols := 2#16, grows := 0#16, gcols := 0#16,
                           cfgM := 3#4, cfgR := 1#4 : State }
    s.Inv ∧ s.busy = false ∧ Buf.buf0 ≠ Buf.buf1 ∧ s.built = true ∧ s.len.toNat % s.N.toNat = 0 ∧
    s.len.toNat ≤ 65536 ∧ s.len.toNat / s.N.toNat * syndromeLen s.BR.toNat s.BM.toNat ≤ 65536 ∧
    (monosOfDegree s.BM.toNat s.BR.toNat)[2]? = some [3] :=
  ⟨idle13_regs_inv _ _ _ _ _ _ _ _, by decide +kernel⟩

theorem witness_BlockStepWritesOnlyItsBlock :
    ((running building).Inv ∧ (running building).lc = some building ∧ building.op = .build) ∧
    ((running sending).Inv ∧ (running sending).lc = some sending ∧ sending.op ≠ .build) ∧
    (running multiplying).Inv ∧ (running multiplying).lc = some multiplying ∧ multiplying.op ≠ .build :=
  ⟨⟨running_inv building_running false, rfl, rfl⟩, ⟨running_inv sending_running false, rfl, by decide⟩,
    running_inv multiplying_running false, rfl, by decide⟩

theorem witness_MultiplierIsLinear : 0 < 1 ∧ 3 < 4 := by decide

/-- RM(0, 0), RM(1, 3), the first and the last row of the last one, and a position where its last row is 1. -/
theorem witness_GeneratorRowsInOrder :
    0 ≤ 0 ∧ 1 ≤ 3 ∧ (monos 1 3)[0]? = some [] ∧ (monos 1 3)[3]? = some [3] ∧
    ∀ i ∈ [3], (4 : Nat).testBit (i - 1) = true := by decide

theorem witness_BuiltDimensionsAreBounded :
    (idle13.Inv ∧ idle13.built = true) ∧ State.reset.Inv ∧ State.reset.built = false :=
  ⟨⟨idle13_inv, rfl⟩, reset_inv, rfl⟩

/-- The empty monomial, and one of the middle degree with the coordinates outside it. -/
theorem witness_ChecksAreDualToTheRows :
    ([] ∈ monosOfDegree 3 0 ∧ 7 < 2 ^ (3 - 0)) ∧
    ([1, 3] ∈ monosOfDegree 3 2 ∧ 1 < 2 ^ (3 - 2) ∧ 7 < 2 ^ 3 ∧ 1 ≤ 2 ∧ [2] ∈ monosOfDegree 3 1) ∧
    [2].Pairwise (· < ·) ∧ ∀ i, i ∈ [2] ↔ 1 ≤ i ∧ i ≤ 3 ∧ i ∉ [1, 3] := by
  refine ⟨by decide, by decide, by decide, fun i => ?_⟩
  simp only [List.mem_cons, List.not_mem_nil, or_false]
  omega

theorem witness_DecoderInvertsTheEncoder :
    (1 ≤ 3 ∧ [true, false, true, true].length = codeDim 1 3) ∧ 0 ≤ 0 ∧ [true].length = codeDim 0 0 := by decide

/-- One error in RM(1, 3), its radius. -/
theorem witness_DecoderCorrectsErrors :
    1 < 3 ∧ [true, false, true, true].length = codeDim 1 3 ∧
    (List.range (2 ^ 3)).countP (fun j => decide (j = 0)) = 1 ∧ 1 ≤ 2 ^ (3 - 1 - 1) - 1 := by decide

theorem witness_FirstStageVotesOnTheChecks : 1 ≤ 3 ∧ 0 ≤ 0 := by decide

theorem witness_TransmitAtTheBoundaries :
    (let s := { State.reset with len := 65536#32 : State }
     s.busy = false ∧ Buf.buf0 ≠ Buf.buf1 ∧ s.len.toNat ≤ 65536 ∧ s.pe = 0#32) ∧
    let s := { State.reset with len := 65536#32, pe := 65536#32 : State }
    s.busy = false ∧ Buf.buf0 ≠ Buf.buf1 ∧ s.len.toNat ≤ 65536 ∧ s.pe = 65536#32 := by decide

theorem witness_EncodeThenDecodeRestoresTheMessage :
    idle13.Inv ∧ idle13.busy = false ∧ Buf.buf0 ≠ Buf.buf1 ∧ idle13.built = true ∧ idle13.grows = idle13.K ∧
    idle13.gcols = idle13.N ∧
    (∀ i < idle13.K.toNat, ∀ j < idle13.N.toNat, idle13.gBit i j = genEntry idle13.BR.toNat idle13.BM.toNat i j) ∧
    idle13.len.toNat % idle13.K.toNat = 0 ∧ idle13.len.toNat / idle13.K.toNat * idle13.N.toNat ≤ 65536 ∧
    idle13.len.toNat ≤ 65536 ∧
    ∀ u : State, ∃ w : State, w = u ∨ ∃ g, w = u.setBufBits .buf0 0 idle13.len.toNat g :=
  ⟨idle13_inv, by decide, by decide, by decide, by decide, by decide, by decide +kernel, by decide, by decide, by decide,
    fun u => ⟨u, .inl rfl⟩⟩

/-- The frame 2 × 2 of the idle block, in both orders, from the first command's own result and from one whose source
buffer the host has cleared. -/
theorem witness_InterleaveAndDeinterleaveUndoEachOther :
    (∀ first second : Buf → Buf → Instr, first = .interleave ∧ second = .deinterleave →
      (first = .interleave ∧ second = .deinterleave) ∨ (first = .deinterleave ∧ second = .interleave)) ∧
    (∀ u : State, ∃ w : State, w = u ∨ ∃ g, w = u.setBufBits .buf0 0 idle13.len.toNat g) ∧
    idle13.busy = false ∧ Buf.buf0 ≠ Buf.buf1 ∧ idle13.irows ≠ 0#16 ∧ idle13.icols ≠ 0#16 ∧
    idle13.len.toNat % (idle13.irows.toNat * idle13.icols.toNat) = 0 ∧ idle13.len.toNat ≤ 65536 :=
  ⟨fun _ _ h => .inl h, fun u => ⟨u, .inl rfl⟩, by decide⟩

theorem witness_RegisterAccessesHaveNoOtherEffect :
    Reg.irqen ≠ .cmd ∧ Reg.irqen ≠ .abort ∧ Reg.irqen ≠ .status := by decide

theorem witness_HostRegistersReadBack :
    (Reg.cfg, (0xFF#32 : Word)) ∈ [(Reg.cfg, 0xFF#32), (Reg.gshape, 0xFFFFFFFF#32), (Reg.pe, 0xFFFFFFFF#32),
      (Reg.ilv, 0xFFFFFFFF#32), (Reg.len, 0xFFFFFFFF#32), (Reg.irqen, 1#32)] ∧
    Reg.code ≠ .cfg ∧ Reg.code ≠ .padcnt ∧ Reg.cfg ≠ .len := by decide

theorem witness_ReadOnlyRegistersIgnoreWrites :
    Reg.id ∈ [Reg.id, .code, .builtcfg, .outlen, .blocks, .padcnt, .flips] := by decide

theorem witness_AbortWriteNeedsARunningCommand :
    ((1#32 : Word).getLsbD 0 = true ∧ (running sending).busy = true) ∧
    (0xFFFFFFFE#32 : Word).getLsbD 0 = false ∧ State.reset.busy = false := by decide

theorem witness_UnsupportedAccessIsABusError :
    Width.half ≠ .word ∧ (0x0001#16).toNat % 4 ≠ 0 ∧ (0xFFFF#16).toNat % 4 ≠ 0 := by decide

theorem witness_UnmappedAccessHasNoEffect :
    ∀ a ∈ [0x0040#16, 0x3FFC#16, 0xA000#16, 0xFFFC#16],
      a.toNat % 4 = 0 ∧ ((0x40 ≤ a.toNat ∧ a.toNat < 0x4000) ∨ 0xA000 ≤ a.toNat) := by simp

theorem witness_MemoryWordReadsBack :
    State.reset.busy = false ∧
    ∀ a ∈ [0x4000#16, 0x9FFC#16], a.toNat % 4 = 0 ∧ memLo ≤ a.toNat ∧ a.toNat < memHi := by
  refine ⟨rfl, ?_⟩
  simp [memLo, memHi]

theorem witness_StreamAndGramBitsAreWordBits : 255 < 256 ∧ 65535 < 65536 := by omega

/-- Each clause at the first and the last word of its range. -/
theorem witness_MemoryInUseIsUnpredictable :
    ((running sending).Inv ∧ (running sending).lc = some sending ∧ sending.op ≠ .build ∧
      ∀ a ∈ [0x4000#16, 0x7FFC#16], a.toNat % 4 = 0 ∧ 0x4000 ≤ a.toNat ∧ a.toNat < 0x8000) ∧
    ((running building).Inv ∧ (running building).lc = some building ∧ building.op = .build ∧
      ∀ a ∈ [0x8000#16, 0x9FFC#16], a.toNat % 4 = 0 ∧ 0x8000 ≤ a.toNat ∧ a.toNat < 0xA000) ∧
    ((running encoding).Inv ∧ (running encoding).lc = some encoding ∧ encoding.op = .encode) ∧
    ((running multiplying).Inv ∧ (running multiplying).lc = some multiplying ∧ multiplying.op = .matvec) ∧
    (∀ a ∈ [0x4000#16, 0x7FFC#16],
      building.op = .build ∧ a.toNat % 4 = 0 ∧ 0x4000 ≤ a.toNat ∧ a.toNat < 0x8000) ∧
    ∀ a ∈ [0x8000#16, 0x9FFC#16],
      sending.op ≠ .build ∧ sending.op ≠ .encode ∧ sending.op ≠ .matvec ∧ a.toNat % 4 = 0 ∧ 0x8000 ≤ a.toNat ∧
        a.toNat < 0xA000 :=
  ⟨⟨running_inv sending_running false, rfl, by decide, by simp⟩,
    ⟨running_inv building_running false, rfl, rfl, by simp⟩,
    ⟨running_inv encoding_running false, rfl, rfl⟩, ⟨running_inv multiplying_running false, rfl, rfl⟩,
    by simp [building, latch], by simp [sending, latch]⟩

theorem witness_PaddingCompletesTheBlock :
    (idle13.Inv ∧ idle13.built = true) ∧ State.reset.Inv ∧ State.reset.built = false :=
  ⟨⟨idle13_inv, rfl⟩, reset_inv, rfl⟩

/-- With IE set: an aborted command, a failed issue, a TRANSMIT with LEN = 0, and a reserved word written to CMD. -/
theorem witness_InterruptAssertsAtCompletion :
    (let s := { running sending with abortPending := true, ie := true : State }
     ∃ t, step s = .next t ∧ s.busy = true ∧ t.busy = false ∧ t.ie = true) ∧
    let s := { State.reset with ie := true : State }
    (∃ t, s.busy = false ∧ exec (.decode .buf0 .buf1) s = .next t ∧ t.err ≠ .none ∧ s.ie = true) ∧
    (∃ t, exec (.transmit .buf0 .buf1) s = .next t ∧ t.busy = false ∧ t.err = .none) ∧
    (∃ t, onWriteCmd 0x00000000#32 s = .next t ∧ t.busy = false) ∧
    let s := s.withInputs [.write .word cmdAddr 0x00000000#32]
    ∃ t, s.env.inputs = .write .word cmdAddr 0x00000000#32 :: [] ∧ step s = .next t ∧ s.busy = false ∧
      t.busy = false ∧ s.ie = true :=
  ⟨⟨sequencerStep { running sending with abortPending := true, ie := true }, step_no_input rfl, rfl, rfl, rfl⟩,
    ⟨State.issue { State.reset with ie := true } (decodeChecks .buf0 .buf1 { State.reset with ie := true }),
      rfl, rfl, by decide, rfl⟩,
    ⟨State.issue { State.reset with ie := true } (transmitChecks .buf0 .buf1 { State.reset with ie := true }),
      rfl, rfl, rfl⟩,
    ⟨State.issue { State.reset with ie := true } (.error .illegalCommand), rfl, rfl⟩,
    State.issue (State.respond { State.reset with ie := true } .written) (.error .illegalCommand), rfl,
    step_input (s := State.withInputs { State.reset with ie := true } [.write .word cmdAddr 0x00000000#32]) rfl,
    rfl, rfl, rfl⟩

theorem witness_InvariantIsKept :
    (running sending).Inv ∧ ∃ t, step (running sending) = .next t :=
  ⟨running_inv sending_running false, sequencerStep (running sending), step_no_input rfl⟩

/-- A step of another command, a host access while BUILD runs, which are not BUILD's block steps, a block step of BUILD,
and a reset, each with a built code. -/
theorem witness_OnlyBuildChangesTheCode :
    (∃ t, step (running sending) = .next t ∧ (running sending).built = true) ∧
    (∃ t, step ((running building).withInputs [.write .word 0x0000#16 0#32]) = .next t) ∧
    (∃ t, step (running building) = .next t ∧ (running building).built = true ∧
      (running building).atBlockStepOf .build) ∧
    ∃ t, step (idle13.withInputs [.reset]) = .next t ∧ idle13.built = true :=
  ⟨⟨sequencerStep (running sending), step_no_input rfl, rfl⟩,
    ⟨(running building).respond .written,
      step_input (s := (running building).withInputs [.write .word 0x0000#16 0#32]) rfl⟩,
    ⟨sequencerStep (running building), step_no_input rfl, rfl, .inl rfl, ⟨building, rfl, rfl⟩, rfl⟩,
    (idle13.withInputs []).resetBlock, step_input (s := idle13.withInputs [.reset]) rfl, rfl⟩

/-- A block step of TRANSMIT, a host access while it runs, and an idle step. -/
theorem witness_FlipsAndDrawsBelongToTransmit :
    ((running sending).Inv ∧ (∃ t, step (running sending) = .next t) ∧ (running sending).atBlockStepOf .transmit) ∧
    (∃ t, step ((running sending).withInputs [.write .word 0x0000#16 0#32]) = .next t) ∧
    idle13.Inv ∧ ∃ t, step idle13 = .next t :=
  ⟨⟨running_inv sending_running false, ⟨sequencerStep (running sending), step_no_input rfl⟩, .inl rfl,
      ⟨sending, rfl, rfl⟩, rfl⟩,
    ⟨(running sending).respond .written,
      step_input (s := (running sending).withInputs [.write .word 0x0000#16 0#32]) rfl⟩,
    idle13_inv, sequencerStep idle13, step_no_input rfl⟩

theorem witness_RegisterWritesDoNotReachTheCommand :
    ((running sending).busy = true ∧ Reg.irqen ∈ [Reg.cfg, .gshape, .pe, .ilv, .len, .irqen]) ∧
    isStream (.encode .buf0 .buf1) = true ∧ ∃ t, exec (.encode .buf0 .buf1) idle13 = .next t :=
  ⟨⟨rfl, by decide⟩, rfl, idle13.issue (encodeChecks .buf0 .buf1 idle13), rfl⟩

/-- One running command of each kind that latches operands of its own. -/
theorem witness_AcceptedIssueLatchesItsOperands :
    idle13.busy = false ∧
    (∃ t c, exec (.encode .buf0 .buf1) idle13 = .next t ∧ t.lc = some c ∧ c.op = .encode) ∧
    (∃ t c, exec (.matvec .buf0 .buf1) idle13 = .next t ∧ t.lc = some c ∧ c.op = .matvec) ∧
    (∃ t c, exec (.transmit .buf0 .buf1) idle13 = .next t ∧ t.lc = some c ∧ c.op = .transmit) ∧
    (∃ t c, exec (.interleave .buf0 .buf1) idle13 = .next t ∧ t.lc = some c ∧ c.op = .interleave) ∧
    (∃ t c, exec (.deinterleave .buf0 .buf1) idle13 = .next t ∧ t.lc = some c ∧ c.op = .deinterleave) ∧
    (∃ t c, exec (.build .buf0 .buf0) idle13 = .next t ∧ t.lc = some c ∧ c.op = .build) ∧
    let s := { idle13 with len := 8#32 : State }
    s.busy = false ∧
    (∃ t c, exec (.decode .buf0 .buf1) s = .next t ∧ t.lc = some c ∧ c.op = .decode) ∧
    ∃ t c, exec (.checks .buf0 .buf1) s = .next t ∧ t.lc = some c ∧ c.op = .checks :=
  ⟨rfl, ⟨_, _, rfl, rfl, rfl⟩, ⟨_, _, rfl, rfl, rfl⟩, ⟨_, _, rfl, rfl, rfl⟩, ⟨_, _, rfl, rfl, rfl⟩,
    ⟨_, _, rfl, rfl, rfl⟩, ⟨_, _, rfl, rfl, rfl⟩, rfl, ⟨_, _, rfl, rfl, rfl⟩, _, _, rfl, rfl, rfl⟩

theorem witness_ResetGivesTheResetState :
    ((running sending).withInputs [.reset, .sequencer]).env.inputs = .reset :: [.sequencer] := rfl

end Sys2Proof.Tests
end

/-! PROOF. Every step of every agent keeps the invariant (O48). A step is a quiet host access, the issue of a command,
a sequencer step or a reset (`step_cases`, `runInput_cases`); each of them keeps the invariant by a lemma of its own. -/

namespace Sys2Proof.Machine

/-! ### The parts of the invariant -/

/-- The code part of the invariant: the built code is a code, or nothing is built and all its fields are 0 (R23, R24). -/
structure State.CodeFits (s : State) : Prop where
  notBuilt : s.built = false → s.K = 0#16 ∧ s.N = 0#16 ∧ s.BR = 0#4 ∧ s.BM = 0#4
  isBuilt : s.built = true → s.BR.toNat ≤ s.BM.toNat ∧ s.BM.toNat ≤ 8 ∧
    s.K.toNat = codeDim s.BR.toNat s.BM.toNat ∧ s.N.toNat = codeLen s.BM.toNat

theorem State.Inv.codeFits {s : State} (h : s.Inv) : s.CodeFits := ⟨h.notBuilt, h.isBuilt⟩

theorem State.CodeFits.of_sameCode {s t : State} (h : s.CodeFits) (e : SameCode s t) : t.CodeFits := by
  obtain ⟨hn, hb⟩ := h
  obtain ⟨h1, h2, h3, h4, h5⟩ := e
  constructor <;> rw [h1, h2, h3, h4, h5] <;> assumption

theorem State.Running.of_sameCounts {s t : State} {c : Latched} (h : s.Running c) (e : SameCounts s t) :
    t.Running c := by
  obtain ⟨ho, hb, hf⟩ := e
  exact ⟨h.fits, hb ▸ h.next, h.count, h.input, h.output, by rw [ho, hb]; exact h.outlen, h.buffers,
    by rw [hf, hb]; exact h.flips⟩

/-- The invariant of an idle block. -/
theorem State.Inv.of_idle {s : State} (memory : s.mem.wf) (code : s.CodeFits) (idle : s.lc = none)
    (abort : s.abortPending = false) (aborted : s.aborted = true → s.err = .none)
    (flips : s.flips.toNat ≤ 65536) : s.Inv :=
  ⟨memory, code.notBuilt, code.isBuilt, fun c hc => by simp [idle] at hc, by simp [abort], aborted, flips⟩

/-- The invariant of a busy block: its command is within its bounds and DONE, ABORTED and ERR are clear. -/
theorem State.Inv.of_running {s : State} {c : Latched} (memory : s.mem.wf) (code : s.CodeFits) (busy : s.lc = some c)
    (running : s.Running c) (done : s.done = false) (aborted : s.aborted = false) (err : s.err = .none)
    (flips : s.flips.toNat ≤ 65536) : s.Inv :=
  ⟨memory, code.notBuilt, code.isBuilt, fun d hd => by cases busy.symm.trans hd; exact ⟨running, done, aborted, err⟩,
    fun _ => (State.busy_true_iff s).mpr ⟨c, busy⟩, fun _ => err, flips⟩

/-! ### Quiet accesses -/

/-- What the invariant sees, memory aside, of a host access that starts no command: the code, the counts and the
command are kept, DONE may be cleared (R31), and an abort may be requested while a command runs (R37). -/
structure QuietAccess (s t : State) : Prop where
  code : SameCode s t
  counts : SameCounts s t
  lc : t.lc = s.lc
  aborted : t.aborted = s.aborted
  err : t.err = s.err
  done : t.done = true → s.done = true
  abort : t.abortPending = true → s.abortPending = true ∨ s.busy = true

theorem QuietAccess.keeps_inv {s t : State} (a : QuietAccess s t) (h : s.Inv) (hm : t.mem.wf) : t.Inv where
  memory := hm
  notBuilt := (h.codeFits.of_sameCode a.code).notBuilt
  isBuilt := (h.codeFits.of_sameCode a.code).isBuilt
  running c hc := by
    obtain ⟨hr, hd, ha, he⟩ := h.running c (a.lc ▸ hc)
    refine ⟨hr.of_sameCounts a.counts, ?_, a.aborted.trans ha, a.err.trans he⟩
    exact Bool.eq_false_iff.mpr fun ht => by simp [a.done ht] at hd
  abort ht := by
    rw [State.busy_eq, a.lc, ← State.busy_eq]
    exact (a.abort ht).elim h.abort id
  aborted ht := a.err.trans (h.aborted (a.aborted ▸ ht))
  flips := by rw [a.counts.flips]; exact h.flips

theorem QuietAccess.respond (s : State) (x : Response) : QuietAccess s (s.respond x) :=
  ⟨⟨rfl, rfl, rfl, rfl, rfl⟩, ⟨rfl, rfl, rfl⟩, rfl, rfl, rfl, id, .inl⟩

theorem QuietAccess.withInputs (s : State) (es : List Input) : QuietAccess s (s.withInputs es) :=
  ⟨⟨rfl, rfl, rfl, rfl, rfl⟩, ⟨rfl, rfl, rfl⟩, rfl, rfl, rfl, id, .inl⟩

theorem QuietAccess.drop (s : State) : QuietAccess s s.drop :=
  ⟨⟨rfl, rfl, rfl, rfl, rfl⟩, ⟨rfl, rfl, rfl⟩, rfl, rfl, rfl, id, .inl⟩

theorem QuietAccess.putWord (s : State) (a : Nat) (v : Word) : QuietAccess s (s.putWord a v) :=
  ⟨⟨rfl, rfl, rfl, rfl, rfl⟩, ⟨rfl, rfl, rfl⟩, rfl, rfl, rfl, id, .inl⟩

theorem QuietAccess.storeReg (s : State) (r : Reg) (v : Word) : QuietAccess s (s.storeReg r v) := by
  cases r with
  | status =>
    exact ⟨⟨rfl, rfl, rfl, rfl, rfl⟩, ⟨rfl, rfl, rfl⟩, rfl, rfl, rfl,
      fun hd => (Bool.and_eq_true_iff.mp hd).1, .inl⟩
  | abort =>
    exact ⟨⟨rfl, rfl, rfl, rfl, rfl⟩, ⟨rfl, rfl, rfl⟩, rfl, rfl, rfl, id,
      fun ha => (Bool.or_eq_true_iff.mp ha).imp_right fun hb => (Bool.and_eq_true_iff.mp hb).2⟩
  | _ => exact ⟨⟨rfl, rfl, rfl, rfl, rfl⟩, ⟨rfl, rfl, rfl⟩, rfl, rfl, rfl, id, .inl⟩

theorem State.storeReg_mem (s : State) (r : Reg) (v : Word) : (s.storeReg r v).mem = s.mem := by
  cases r <;> rfl

theorem State.Inv.respond {s : State} (h : s.Inv) (x : Response) : (s.respond x).Inv :=
  (QuietAccess.respond s x).keeps_inv h h.memory

theorem State.Inv.withInputs {s : State} (h : s.Inv) (es : List Input) : (s.withInputs es).Inv :=
  (QuietAccess.withInputs s es).keeps_inv h h.memory

theorem State.Inv.drop {s : State} (h : s.Inv) : s.drop.Inv :=
  (QuietAccess.drop s).keeps_inv h h.memory

theorem State.Inv.storeReg {s : State} (h : s.Inv) (r : Reg) (v : Word) : (s.storeReg r v).Inv :=
  (QuietAccess.storeReg s r v).keeps_inv h (by rw [State.storeReg_mem]; exact h.memory)

theorem State.Inv.putWord {s : State} (h : s.Inv) {a : Nat} (v : Word) (h1 : memLo ≤ a) (h2 : a + 4 ≤ memHi) :
    (s.putWord a v).Inv :=
  (QuietAccess.putWord s a v).keeps_inv h (Memory.wf_put _ h.memory h1 h2)

/-! ### What the issue checks admit -/

/-- The bounds of a running command that do not speak of its progress (R43, R71, R97, R205). -/
structure Latched.Admissible (c : Latched) : Prop where
  fits : c.Fits
  count : c.T ≤ 65536
  input : c.T * c.IB ≤ 65536
  output : c.T * c.OB ≤ 65536
  buffers : c.op ≠ .build → c.src ≠ c.dst ∧ 1 ≤ c.IB

/-- A stream command whose source stream of `len` bits and whose output fit in a buffer (R97, R205). -/
theorem Latched.Admissible.of_stream {c : Latched} {len : Nat} (hT : c.T = len / c.IB) (hl : len ≤ 65536)
    (hf : c.Fits) (ho : c.T * c.OB ≤ 65536) (hd : c.src ≠ c.dst) (hI : 1 ≤ c.IB) : c.Admissible :=
  ⟨hf, hT ▸ (Nat.div_le_self _ _).trans hl, hT ▸ div_mul_le_bound _ hl, ho, fun _ => ⟨hd, hI⟩⟩

section
variable {s : State} {src dst : Buf} {c : Latched}

theorem buildChecks_admissible (h : buildChecks s = .ok c) : c.Admissible := by
  obtain ⟨hm, hr, rfl⟩ := buildChecks_ok h
  exact ⟨⟨rfl, rfl, rfl, hr, hm⟩, by simp [latch], by simp [latch], by simp [latch], fun hop => absurd rfl hop⟩

theorem encodeChecks_admissible (hs : s.Inv) (h : encodeChecks src dst s = .ok c) : c.Admissible := by
  obtain ⟨hd, hb, -, -, -, hl, ho, rfl⟩ := encodeChecks_ok h
  obtain ⟨-, -, hK, -⟩ := hs.isBuilt hb
  exact .of_stream rfl hl ⟨rfl, rfl⟩ ho hd ((one_le_codeDim _ _).trans_eq hK.symm)

theorem matvecChecks_admissible (h : matvecChecks src dst s = .ok c) : c.Admissible := by
  obtain ⟨hd, ⟨ha, ha', hb, hb'⟩, -, hl, ho, rfl⟩ := matvecChecks_ok h
  exact .of_stream rfl hl ⟨rfl, rfl, ha', hb, hb'⟩ ho hd ha

theorem transmitChecks_admissible (h : transmitChecks src dst s = .ok c) : c.Admissible := by
  obtain ⟨hd, hp, hl, rfl⟩ := transmitChecks_ok h
  exact .of_stream (Nat.div_one _).symm hl ⟨rfl, rfl, hp⟩ ((Nat.mul_one _).trans_le hl) hd le_rfl

/-- DECODE's output is no longer than its input, because K ≤ N (R110). -/
theorem decodeChecks_admissible (hs : s.Inv) (h : decodeChecks src dst s = .ok c) : c.Admissible := by
  obtain ⟨hd, hb, -, hl, rfl⟩ := decodeChecks_ok h
  obtain ⟨hr, hm, hK, hN⟩ := hs.isBuilt hb
  have hKN : s.K.toNat ≤ s.N.toNat := hK ▸ hN ▸ codeDim_le_codeLen hr
  exact .of_stream rfl hl ⟨hr, hm, hN, hK⟩ ((Nat.mul_le_mul_left _ hKN).trans (div_mul_le_bound _ hl)) hd
    ((codeLen_pos _).trans_eq hN.symm)

theorem checksChecks_admissible (hs : s.Inv) (h : checksChecks src dst s = .ok c) : c.Admissible := by
  obtain ⟨hd, hb, -, hl, ho, rfl⟩ := checksChecks_ok h
  obtain ⟨hr, hm, -, hN⟩ := hs.isBuilt hb
  exact .of_stream rfl hl ⟨hr, hm, hN, rfl⟩ ho hd ((codeLen_pos _).trans_eq hN.symm)

theorem frameChecks_admissible {op : Opcode} (hop : op = .interleave ∨ op = .deinterleave)
    (h : frameChecks op src dst s = .ok c) : c.Admissible := by
  obtain ⟨hd, hr, hc, -, hl, rfl⟩ := frameChecks_ok h
  refine .of_stream rfl hl ?_ (div_mul_le_bound _ hl) hd (Nat.mul_pos (by omega) (by omega))
  obtain rfl | rfl := hop <;> exact ⟨rfl, rfl⟩

end

/-! ### The issue -/

/-- An accepted command starts at block 0 with nothing counted, and completes at once when it has no block (R200). -/
theorem State.Inv.accept {s : State} {c : Latched} (h : s.Inv) (hc : c.Admissible) : (s.beginIssue.accept c).Inv := by
  have code : (s.beginIssue.accept c).CodeFits := h.codeFits.of_sameCode (by constructor <;> simp)
  have memory : (s.beginIssue.accept c).mem.wf := by simpa using h.memory
  have flips : (s.beginIssue.accept c).flips.toNat ≤ 65536 := by
    rw [State.accept_flips]
    split
    · decide
    · exact h.flips
  by_cases hT : c.T = 0
  · exact .of_idle memory code (by simp [State.accept_lc, hT]) (by simp) (fun _ => by simp) flips
  · refine .of_running (c := c) memory code (by simp [State.accept_lc, hT]) ?_ (by simp [State.accept_done, hT])
      (by simp [State.accept_aborted]) (by simp) flips
    exact ⟨hc.fits, by simpa using Nat.pos_of_ne_zero hT, hc.count, hc.input, hc.output, by simp, hc.buffers,
      fun hop => by simp [hop]⟩

/-- An issue keeps the invariant when its checks admit only commands within their bounds (R200, R206). -/
theorem State.Inv.issue {s : State} {checks : Except ErrCode Latched} (h : s.Inv)
    (hok : ∀ c, checks = .ok c → c.Admissible) : (s.issue checks).Inv := by
  obtain ⟨-, e⟩ | ⟨hb, code, -, e⟩ | ⟨-, c, hc, e⟩ := issue_cases s checks
  · rw [e]
    exact h.drop
  · rw [e]
    have idle : s.lc = none := (State.busy_false_iff s).mp hb
    have noAbort : s.abortPending = false := Bool.eq_false_iff.mpr fun ha => by simp [h.abort ha] at hb
    exact .of_idle h.memory ⟨h.notBuilt, h.isBuilt⟩ idle noAbort (by simp) h.flips
  · rw [e]
    exact h.accept (hok c hc)

theorem exec_keeps_inv {i : Instr} {s t : State} (h : s.Inv) (he : exec i s = .next t) : t.Inv := by
  cases i with
  | build src dst => cases he; exact h.issue fun c hc => buildChecks_admissible hc
  | encode src dst => cases he; exact h.issue fun c hc => encodeChecks_admissible h hc
  | matvec src dst => cases he; exact h.issue fun c hc => matvecChecks_admissible hc
  | transmit src dst => cases he; exact h.issue fun c hc => transmitChecks_admissible hc
  | decode src dst => cases he; exact h.issue fun c hc => decodeChecks_admissible h hc
  | interleave src dst => cases he; exact h.issue fun c hc => frameChecks_admissible (.inl rfl) hc
  | deinterleave src dst => cases he; exact h.issue fun c hc => frameChecks_admissible (.inr rfl) hc
  | checks src dst => cases he; exact h.issue fun c hc => checksChecks_admissible h hc

/-! ### The block step -/

theorem blockStep_build {c : Latched} (h : c.op = .build) (t : Nat) (s : State) : blockStep c t s = buildBlock c s := by
  simp only [blockStep, h]

theorem blockStep_sameCode {c : Latched} (h : c.op ≠ .build) (t : Nat) (s : State) : SameCode s (blockStep c t s) := by
  obtain ⟨f, hf⟩ := blockStep_stream h t s
  rw [hf]
  exact ⟨rfl, rfl, rfl, rfl, rfl⟩

/-- BUILD leaves a code, whose dimension and length fit in CODE's 16-bit fields (R23, R110). -/
theorem buildBlock_codeFits {c : Latched} (s : State) (hr : c.r.toNat ≤ c.m.toNat) (hm : c.m.toNat ≤ 8) :
    (buildBlock c s).CodeFits := by
  have hN : codeLen c.m.toNat ≤ 256 := codeLen_le hm
  have hK : codeDim c.r.toNat c.m.toNat ≤ codeLen c.m.toNat := codeDim_le_codeLen hr
  refine ⟨fun hb => Bool.noConfusion hb, fun _ => ⟨hr, hm, ?_, ?_⟩⟩
  · exact BitVec.toNat_ofNat .. ▸ Nat.mod_eq_of_lt (by omega)
  · exact BitVec.toNat_ofNat .. ▸ Nat.mod_eq_of_lt (by omega)

section
variable {s : State} {c : Latched}

theorem State.Running.blockStep_codeFits (h : s.Running c) (hs : s.CodeFits) (t : Nat) :
    (blockStep c t s).CodeFits := by
  by_cases hop : c.op = .build
  · have fits := h.fits
    simp only [Latched.Fits, hop] at fits
    obtain ⟨-, -, -, hr, hm⟩ := fits
    rw [blockStep_build hop]
    exact buildBlock_codeFits s hr hm
  · exact hs.of_sameCode (blockStep_sameCode hop t s)

/-- The output block lies inside its buffer (R71, R205), so the write keeps memory in canonical form (log 1). -/
theorem State.Running.blockStep_wf (h : s.Running c) (hm : s.mem.wf) : (blockStep c s.blocks.toNat s).mem.wf := by
  by_cases hop : c.op = .build
  · rw [blockStep_build hop]
    exact State.wf_setGram _ hm
  · obtain ⟨f, hf⟩ := blockStep_stream hop s.blocks.toNat s
    rw [hf]
    exact State.wf_setBufBits f hm (block_end_le h.next h.output)

theorem State.Running.blocks_succ (h : s.Running c) : (s.blocks + 1#32).toNat = s.blocks.toNat + 1 := by
  have := h.next
  have := h.count
  simp only [BitVec.toNat_add, BitVec.toNat_ofNat]
  omega

/-- OUTLEN counts one more whole block and does not wrap, because the whole output fits in a buffer (R34, R205). -/
theorem State.Running.outlen_succ (h : s.Running c) :
    (s.outlen + BitVec.ofNat 32 c.OB).toNat = (s.blocks.toNat + 1) * c.OB := by
  have hend : s.blocks.toNat * c.OB + c.OB ≤ 65536 := block_end_le h.next h.output
  have := h.outlen
  rw [Nat.add_mul, Nat.one_mul]
  simp only [BitVec.toNat_add, BitVec.toNat_ofNat]
  omega

/-- FLIPS counts at most one more of the bits a TRANSMIT has sent (R152). -/
theorem State.Running.blockStep_flips_le (h : s.Running c) (hop : c.op = .transmit) :
    (blockStep c s.blocks.toNat s).flips.toNat ≤ s.blocks.toNat + 1 := by
  have hf := h.flips hop
  have := h.next
  have := h.count
  rw [blockStep_transmit _ _ hop]
  simp only
  split
  · simp only [BitVec.toNat_add, BitVec.toNat_ofNat]
    omega
  · omega

theorem State.Running.blockStep_flips_bound (h : s.Running c) (hs : s.flips.toNat ≤ 65536) :
    (blockStep c s.blocks.toNat s).flips.toNat ≤ 65536 := by
  by_cases hop : c.op = .transmit
  · have := h.blockStep_flips_le hop
    have := h.next
    have := h.count
    omega
  · rw [(blockStep_noDraws hop _ s).1]
    exact hs

/-- A block step that is not the last one leaves the command running at the next block (R201). -/
theorem State.Running.countBlock (h : s.Running c)
    (hlast : ((blockStep c s.blocks.toNat s).countBlock c).blocks.toNat ≠ c.T) :
    ((blockStep c s.blocks.toNat s).countBlock c).Running c := by
  have hnext := h.next
  simp only [State.countBlock_blocks, blockStep_blocks, h.blocks_succ] at hlast
  refine ⟨h.fits, ?_, h.count, h.input, h.output, ?_, h.buffers, fun hop => ?_⟩
  · simp only [State.countBlock_blocks, blockStep_blocks, h.blocks_succ]
    omega
  · simp only [State.countBlock_blocks, blockStep_blocks, State.countBlock_outlen, blockStep_outlen, h.blocks_succ,
      h.outlen_succ]
  · simp only [State.countBlock_blocks, blockStep_blocks, State.countBlock_flips, h.blocks_succ]
    exact h.blockStep_flips_le hop

end

/-! ### The sequencer and the machine -/

theorem sequencerStep_keeps_inv {s : State} (h : s.Inv) : (sequencerStep s).Inv := by
  cases hlc : s.lc with
  | none => rwa [sequencerStep_idle hlc]
  | some c =>
    obtain ⟨hr, hdone, haborted, herr⟩ := h.running c hlc
    cases hab : s.abortPending with
    | true =>
      rw [sequencerStep_abort hlc hab]
      exact .of_idle h.memory ⟨h.notBuilt, h.isBuilt⟩ rfl rfl (fun _ => herr) h.flips
    | false =>
      have memory := hr.blockStep_wf h.memory
      have code := hr.blockStep_codeFits h.codeFits s.blocks.toNat
      have flips := hr.blockStep_flips_bound h.flips
      rw [sequencerStep_block hlc hab]
      split
      · exact .of_idle memory ⟨code.notBuilt, code.isBuilt⟩ rfl rfl (fun _ => by simpa using herr) flips
      · next hlast =>
        exact .of_running memory ⟨code.notBuilt, code.isBuilt⟩ (by simpa using hlc) (hr.countBlock hlast)
          (by simpa using hdone) (by simpa using haborted) (by simpa using herr) flips

/-- A reset leaves the state after reset, whose memories are unwritten and whose code is all zero (R230, R231). -/
theorem resetBlock_inv (s : State) : s.resetBlock.Inv :=
  .of_idle ⟨.nil, by simp [State.resetBlock, State.reset]⟩ ⟨fun _ => ⟨rfl, rfl, rfl, rfl⟩, fun hb => Bool.noConfusion hb⟩
    rfl rfl (fun _ => rfl) (Nat.zero_le _)

theorem runInput_keeps_inv {e : Input} {s t : State} (h : s.Inv) (he : runInput e s = .next t) : t.Inv := by
  obtain ⟨x, rfl⟩ | ⟨r, v, rfl⟩ | ⟨n, a, v, ht, h4, -, rfl⟩ | ⟨w, i, -, -, hx⟩ | ⟨w, x, -, -, rfl⟩ | ⟨-, rfl⟩ | ⟨-, rfl⟩ :=
    runInput_cases he
  · exact h.respond x
  · exact (h.storeReg r v).respond .written
  · obtain ⟨h1, h2⟩ := targetOf_mem_inside ht h4
    exact (h.putWord v h1 h2).respond .written
  · exact exec_keeps_inv (h.respond .written) hx
  · exact (h.respond .written).issue fun c hc => nomatch hc
  · exact sequencerStep_keeps_inv h
  · exact resetBlock_inv s

/-- Settles O48: each agent's step keeps the invariant, the sequencer's by the bounds of the running command, an issue
by what its checks admit. -/
theorem invariantIsKept : Obligations.InvariantIsKept := by
  intro s t h ht
  obtain ⟨-, rfl⟩ | ⟨e, rest, -, he⟩ := step_cases ht
  · exact sequencerStep_keeps_inv h
  · exact runInput_keeps_inv (h.withInputs rest) he

end Sys2Proof.Machine

/-! PROOF. What the registers show and keep (O35, O36, O37, O38, O40, O44, O53, O25, O45), what an issue latches (O54), and
what one step of the machine can do to the flags, the built code and the draws (O6, O7, O8, O46, O49, O50). Every issue
is `State.issue` of the checks `wordChecks` or `issueChecks` gives, and every step is a plain access, an issue, a
sequencer step or a reset (`step_kinds`); each claim on steps is one fact for each of these four. -/

namespace Sys2Proof.Machine

/-! ### The fields of a register's word -/

/-- The low field of a word written as two fields. -/
theorem extractLsb'_append_low {v w : Nat} (hi : BitVec v) (lo : BitVec w) : (hi ++ lo).extractLsb' 0 w = lo := by
  rw [BitVec.extractLsb'_append_eq_of_add_le (by omega), BitVec.extractLsb'_eq_self]

/-- A field of a word written as two fields that lies in the high one. -/
theorem extractLsb'_append_high {v w : Nat} (hi : BitVec v) (lo : BitVec w) (start len : Nat) :
    (hi ++ lo).extractLsb' (w + start) len = hi.extractLsb' start len := by
  rw [BitVec.extractLsb'_append_eq_of_le (by omega), Nat.add_sub_cancel_left]

/-- Two 16-bit fields make the word they were taken from (R25, R27). -/
theorem halves_append (v : Word) : v.extractLsb' 16 16 ++ v.extractLsb' 0 16 = v :=
  BitVec.extractLsb'_append_extractLsb' (w := 16) (len := 16)

/-- Bit 0 of a word written as a field above one bit. -/
theorem getLsbD_append_ofBool_zero {v : Nat} (hi : BitVec v) (b : Bool) : (hi ++ BitVec.ofBool b).getLsbD 0 = b := by
  simp only [BitVec.getLsbD_append]
  simp

/-- The bits above bit 0 of a word written as a field above one bit. -/
theorem getLsbD_append_ofBool_succ {v : Nat} (hi : BitVec v) (b : Bool) (i : Nat) :
    (hi ++ BitVec.ofBool b).getLsbD (i + 1) = hi.getLsbD i := by
  simp only [BitVec.getLsbD_append]
  simp

/-- A mask of the `n` low bits keeps them and no other. -/
theorem getLsbD_and_lowMask (v : Word) (n i : Nat) :
    (v &&& (BitVec.allOnes n).setWidth 32).getLsbD i = (decide (i < n) && v.getLsbD i) := by
  simp only [BitVec.getLsbD_and, BitVec.getLsbD_setWidth, BitVec.getLsbD_allOnes]
  by_cases hi : i < 32
  · simp [hi, Bool.and_comm]
  · simp [BitVec.getLsbD_of_ge v i (by omega)]

/-- Two 4-bit fields below reserved bits show the low byte of the word they were taken from (R22, R41). -/
theorem nibbles_append (v : Word) : 0#24 ++ v.extractLsb' 4 4 ++ v.extractLsb' 0 4 = v &&& 0xFF#32 := by
  refine BitVec.eq_of_getLsbD_eq fun i _ => ?_
  rw [show 0xFF#32 = (BitVec.allOnes 8).setWidth 32 from rfl, getLsbD_and_lowMask]
  simp only [BitVec.getLsbD_append, BitVec.getLsbD_extractLsb', BitVec.getLsbD_zero]
  by_cases h4 : i < 4
  · have h8 : i < 8 := by omega
    simp [h4, h8]
  · by_cases h8 : i < 8
    · have hn : i - 4 < 4 := by omega
      have e : 4 + (i - 4) = i := by omega
      simp [h4, h8, hn, e]
    · have hn : ¬ i - 4 < 4 := by omega
      simp [h4, h8, hn]

/-- One bit below reserved bits shows bit 0 of the word it was taken from (R39, R41). -/
theorem bit_append (v : Word) : 0#31 ++ BitVec.ofBool (v.getLsbD 0) = v &&& 1#32 := by
  refine BitVec.eq_of_getLsbD_eq fun i _ => ?_
  rw [show 1#32 = (BitVec.allOnes 1).setWidth 32 from rfl, getLsbD_and_lowMask]
  cases i with
  | zero => rw [getLsbD_append_ofBool_zero]; simp
  | succ i => rw [getLsbD_append_ofBool_succ]; simp

/-! ### Register reads -/

/-- The fields of a register with two 4-bit fields (R22, R24). -/
theorem nibbles_fields (hi lo : BitVec 4) :
    (0#24 ++ hi ++ lo).extractLsb' 0 4 = lo ∧ (0#24 ++ hi ++ lo).extractLsb' 4 4 = hi ∧
      (0#24 ++ hi ++ lo).extractLsb' 8 24 = 0#24 :=
  ⟨extractLsb'_append_low _ _, (extractLsb'_append_high _ _ 0 4).trans (extractLsb'_append_low _ _),
    (extractLsb'_append_high _ _ 4 24).trans BitVec.extractLsb'_append_eq_left⟩

/-- The fields of a register with two 16-bit fields (R23, R25, R27). -/
theorem halves_fields (hi lo : BitVec 16) :
    (hi ++ lo).extractLsb' 0 16 = lo ∧ (hi ++ lo).extractLsb' 16 16 = hi :=
  ⟨extractLsb'_append_low _ _, BitVec.extractLsb'_append_eq_left⟩

theorem statusWord_bits (s : State) :
    s.statusWord.getLsbD 0 = s.busy ∧ s.statusWord.getLsbD 1 = s.built ∧ s.statusWord.getLsbD 2 = s.done ∧
      s.statusWord.getLsbD 3 = s.dropped ∧ s.statusWord.getLsbD 4 = s.aborted := by
  simp only [State.statusWord, getLsbD_append_ofBool_zero, getLsbD_append_ofBool_succ, and_self]

/-- The part of STATUS above its five flags: three bits of 0, ERR, and 0 (R30). -/
theorem statusWord_high (s : State) (start len : Nat) :
    s.statusWord.extractLsb' (5 + start) len = (0#20 ++ s.err.code ++ 0#3).extractLsb' start len := by
  have e : 5 + start = 1 + (1 + (1 + (1 + (1 + start)))) := by omega
  simp only [State.statusWord, e, extractLsb'_append_high]

theorem statusWord_err (s : State) : s.statusWord.extractLsb' 8 4 = s.err.code :=
  (statusWord_high s 3 4).trans
    ((extractLsb'_append_high _ _ 0 4).trans (extractLsb'_append_low _ _))

theorem statusWord_reserved (s : State) :
    s.statusWord.extractLsb' 5 3 = 0#3 ∧ s.statusWord.extractLsb' 12 20 = 0#20 :=
  ⟨(statusWord_high s 0 3).trans (extractLsb'_append_low _ _),
    (statusWord_high s 7 20).trans
      ((extractLsb'_append_high _ _ 4 20).trans BitVec.extractLsb'_append_eq_left)⟩

/-- PADCNT fits in its register (R36). -/
theorem padCount_lt (s : State) : s.padCount < 2 ^ 32 := by
  have hK := s.K.isLt
  unfold State.padCount
  split
  · obtain h0 | h0 := Nat.eq_zero_or_pos s.K.toNat
    · simp [h0]
    · have := Nat.mod_lt (s.K.toNat - s.len.toNat % s.K.toNat) h0
      omega
  · omega

theorem readReg_padcnt_toNat (s : State) : (s.readReg .padcnt).toNat = s.padCount :=
  (BitVec.toNat_ofNat ..).trans (Nat.mod_eq_of_lt (padCount_lt s))

/-- Settles O53: each offset is a register's (`hostRead_reg`), and its word has the fields in its bits. -/
theorem registerReadsShowTheState : Obligations.RegisterReadsShowTheState := by
  intro s
  have cfg := nibbles_fields s.cfgR s.cfgM
  have builtcfg := nibbles_fields s.BR s.BM
  obtain ⟨busy, built, done, dropped, aborted⟩ := statusWord_bits s
  exact ⟨hostRead_reg s .id, ⟨_, hostRead_reg s .cfg, cfg⟩, ⟨_, hostRead_reg s .code, halves_fields s.N s.K⟩,
    ⟨_, hostRead_reg s .builtcfg, builtcfg⟩, ⟨_, hostRead_reg s .gshape, halves_fields s.gcols s.grows⟩,
    hostRead_reg s .pe, ⟨_, hostRead_reg s .ilv, halves_fields s.icols s.irows⟩, hostRead_reg s .len,
    hostRead_reg s .cmd,
    ⟨_, hostRead_reg s .status, busy, built, done, dropped, aborted, statusWord_err s⟩,
    hostRead_reg s .outlen, hostRead_reg s .blocks, hostRead_reg s .abort,
    ⟨_, hostRead_reg s .padcnt, readReg_padcnt_toNat s⟩, hostRead_reg s .flips,
    ⟨_, hostRead_reg s .irqen, getLsbD_append_ofBool_zero _ _, BitVec.extractLsb'_append_eq_left⟩⟩

/-- Settles O44: the flags and the error code stand in their bits of STATUS, and the bits between are 0. -/
theorem statusWordShowsTheFlags : Obligations.StatusWordShowsTheFlags := by
  intro s
  obtain ⟨busy, built, done, dropped, aborted⟩ := statusWord_bits s
  obtain ⟨low, high⟩ := statusWord_reserved s
  refine ⟨busy, built, done, dropped, aborted, low, high, (statusWord_err s).trans ?_⟩
  cases s.err <;> rfl

/-- Settles O25: the built code is RM(r, m) with r ≤ m ≤ 8, so 1 ≤ K ≤ N ≤ 256; an unbuilt one has K = N = 0. -/
theorem builtDimensionsAreBounded : Obligations.BuiltDimensionsAreBounded := by
  refine fun s h => ⟨fun hb => ?_, fun hb => ?_⟩
  · obtain ⟨hr, hm, hK, hN⟩ := h.isBuilt hb
    rw [hK, hN]
    exact ⟨one_le_codeDim _ _, codeDim_le_codeLen hr, codeLen_le hm⟩
  · obtain ⟨hK, hN, -, -⟩ := h.notBuilt hb
    simp only [State.readReg, hK, hN]
    rfl

/-- The padding completes the last block (R36): with 1 ≤ k, `(k - n mod k) mod k` bits bring `n` to a multiple of k. -/
theorem add_padding_mod (n : Nat) {k : Nat} (hk : 1 ≤ k) : (n + (k - n % k) % k) % k = 0 := by
  have hlt : n % k < k := Nat.mod_lt n hk
  calc (n + (k - n % k) % k) % k
      = (n % k + (k - n % k)) % k := by rw [Nat.add_mod_mod, Nat.mod_add_mod]
    _ = 0 := by rw [Nat.add_sub_cancel' hlt.le, Nat.mod_self]

/-- Settles O45: under the invariant K ≥ 1, so PADCNT is a remainder by K that completes LEN. -/
theorem paddingCompletesTheBlock : Obligations.PaddingCompletesTheBlock := by
  refine fun s h => ⟨fun hb => ?_, fun hb => ?_⟩
  · obtain ⟨-, -, hK, -⟩ := h.isBuilt hb
    have hpos : 1 ≤ s.K.toNat := hK ▸ one_le_codeDim _ _
    simp only [readReg_padcnt_toNat, State.padCount, hb, if_true]
    exact ⟨Nat.mod_lt _ hpos, add_padding_mod _ hpos⟩
  · simp [State.readReg, State.padCount, hb]

/-! ### Register writes -/

/-- A store to a register leaves what every other register reads, but for PADCNT, which LEN changes (R36, R41, R42). -/
theorem readReg_storeReg_other (s : State) (v : Word) {r q : Reg} (hq : q ≠ r) (hp : q = .padcnt → r ≠ .len) :
    (s.storeReg r v).readReg q = s.readReg q := by
  cases r with
  | cfg => cases q with | cfg => exact absurd rfl hq | _ => rfl
  | gshape => cases q with | gshape => exact absurd rfl hq | _ => rfl
  | pe => cases q with | pe => exact absurd rfl hq | _ => rfl
  | ilv => cases q with | ilv => exact absurd rfl hq | _ => rfl
  | len => cases q with | len => exact absurd rfl hq | padcnt => exact absurd rfl (hp rfl) | _ => rfl
  | status => cases q with | status => exact absurd rfl hq | _ => rfl
  | abort => cases q <;> rfl
  | irqen => cases q with | irqen => exact absurd rfl hq | _ => rfl
  | _ => rfl

/-- The answer of the port shows in no register. -/
theorem readReg_respond (s : State) (x : Response) (r : Reg) : (s.respond x).readReg r = s.readReg r := by
  cases r <;> rfl

/-- The registers the host writes and reads back (R22, R25 to R28, R39), with the bits that are not reserved. -/
theorem readReg_storeReg_same (s : State) (v : Word) :
    (s.storeReg .cfg v).readReg .cfg = v &&& 0xFF#32 ∧
    (s.storeReg .gshape v).readReg .gshape = v &&& 0xFFFFFFFF#32 ∧
    (s.storeReg .pe v).readReg .pe = v &&& 0xFFFFFFFF#32 ∧
    (s.storeReg .ilv v).readReg .ilv = v &&& 0xFFFFFFFF#32 ∧
    (s.storeReg .len v).readReg .len = v &&& 0xFFFFFFFF#32 ∧
    (s.storeReg .irqen v).readReg .irqen = v &&& 1#32 := by
  have all : v &&& 0xFFFFFFFF#32 = v := BitVec.and_allOnes
  rw [all]
  exact ⟨nibbles_append v, halves_append v, rfl, halves_append v, rfl, bit_append v⟩

/-- Settles O35: the written register reads its stored fields, and a store reaches no other register but PADCNT. -/
theorem hostRegistersReadBack : Obligations.HostRegistersReadBack := by
  intro s v r mask hr
  have same : (s.storeReg r v).readReg r = v &&& mask ∧ r ≠ .cmd ∧ r ≠ .padcnt := by
    obtain ⟨cfg, gshape, pe, ilv, len, irqen⟩ := readReg_storeReg_same s v
    simp only [List.mem_cons, Prod.mk.injEq, List.not_mem_nil, or_false] at hr
    obtain ⟨rfl, rfl⟩ | ⟨rfl, rfl⟩ | ⟨rfl, rfl⟩ | ⟨rfl, rfl⟩ | ⟨rfl, rfl⟩ | ⟨rfl, rfl⟩ := hr <;>
      simp [*]
  obtain ⟨same, hcmd, hpad⟩ := same
  refine ⟨_, hostWrite_reg s v hcmd, ?_, fun q hq hp => ?_, fun hl => ?_⟩
  · rw [readReg_respond, same]
  · rw [readReg_respond, readReg_storeReg_other s v hq fun h => absurd h hp]
  · rw [readReg_respond, readReg_storeReg_other s v hpad.symm fun _ => hl]

/-- Settles O36: a read-only register stores nothing, and STATUS stores by R31. -/
theorem readOnlyRegistersIgnoreWrites : Obligations.ReadOnlyRegistersIgnoreWrites := by
  refine ⟨fun s v r hr => ?_, fun s v => hostWrite_reg s (r := .status) v (by decide)⟩
  have stores : r ≠ .cmd ∧ s.storeReg r v = s := by
    simp only [List.mem_cons, List.not_mem_nil, or_false] at hr
    obtain rfl | rfl | rfl | rfl | rfl | rfl | rfl := hr <;> exact ⟨by decide, rfl⟩
  obtain ⟨hcmd, hsame⟩ := stores
  rw [hostWrite_reg s v hcmd, hsame]
  rfl

/-- Settles O37: a write to STATUS is `State.writeStatus`, which clears two flags and keeps every other field. -/
theorem statusWriteClearsDoneAndDropped : Obligations.StatusWriteClearsDoneAndDropped := by
  intro s v
  refine ⟨_, hostWrite_reg s (r := .status) v (by decide), ?_, ?_, rfl, rfl, ⟨rfl, rfl, rfl, rfl, rfl, rfl, rfl⟩,
    ⟨rfl, rfl⟩, ⟨rfl, rfl, rfl, rfl, rfl⟩, ⟨rfl, rfl, rfl⟩, ⟨rfl, rfl⟩, fun _ _ _ => rfl⟩
  · show (s.done && !v.getLsbD 2) = _
    cases v.getLsbD 2 <;> simp
  · show (s.dropped && !v.getLsbD 3) = _
    cases v.getLsbD 3 <;> simp

/-- A write to ABORT sets the request only with bit 0 set in a busy state (R37). -/
theorem writeAbort_busy {s : State} {v : Word} (hv : v.getLsbD 0 = true) (hb : s.busy = true) :
    s.writeAbort v = { s with abortPending := true } := by
  simp [State.writeAbort, hv, hb]

theorem writeAbort_no_effect {s : State} {v : Word} (h : v.getLsbD 0 = false ∨ s.busy = false) :
    s.writeAbort v = s := by
  have : (v.getLsbD 0 && s.busy) = false := Bool.and_eq_false_iff.mpr h
  rw [State.writeAbort, this, Bool.or_false]

/-- Settles O38: a write to ABORT is `State.writeAbort`, which sets the request in a busy state alone. -/
theorem abortWriteNeedsARunningCommand : Obligations.AbortWriteNeedsARunningCommand := by
  intro s v
  have write : hostWrite .word 0x30#16 v s = .next ((s.writeAbort v).respond .written) :=
    hostWrite_reg s (r := .abort) v (by decide)
  refine ⟨fun hv hb => ?_, fun h => ?_, rfl⟩
  · rw [write, writeAbort_busy hv hb]
    rfl
  · rw [write, writeAbort_no_effect h]
    rfl

theorem targetOf_unmapped {a : Nat} (h : (0x40 ≤ a ∧ a < 0x4000) ∨ 0xA000 ≤ a) : targetOf a = .unmapped := by
  unfold targetOf
  rw [if_neg (by omega)]
  obtain ⟨-, h⟩ | h := h
  · rw [if_pos h]
  · rw [if_neg (by omega), if_neg (by omega), if_neg (by omega), if_neg (by omega)]

/-- Settles O40: the port decodes the address to nothing (`targetOf_unmapped`) and only answers. -/
theorem unmappedAccessHasNoEffect : Obligations.UnmappedAccessHasNoEffect := by
  intro s addr v h4 h
  have word : supported .word addr = true := by simp [supported, h4]
  simp only [hostRead, hostWrite, word, targetOf_unmapped h, if_true]
  exact ⟨rfl, rfl⟩

/-! ### The issue by its checks -/

/-- The issue checks of a command (R96, R206). -/
def issueChecks (i : Instr) (s : State) : Except ErrCode Latched :=
  match i with
  | .build _ _ => buildChecks s
  | .encode src dst => encodeChecks src dst s
  | .matvec src dst => matvecChecks src dst s
  | .transmit src dst => transmitChecks src dst s
  | .decode src dst => decodeChecks src dst s
  | .interleave src dst => frameChecks .interleave src dst s
  | .deinterleave src dst => frameChecks .deinterleave src dst s
  | .checks src dst => checksChecks src dst s

theorem exec_eq (i : Instr) (s : State) : exec i s = .next (s.issue (issueChecks i s)) := by
  cases i <;> rfl

/-- The issue checks of a word the host writes to CMD: its command's, or IllegalCommand (R93 to R95, R200). -/
def wordChecks (w : Word) (s : State) : Except ErrCode Latched :=
  match decodeCW w with
  | .ok i => issueChecks i s
  | .error _ => .error .illegalCommand

theorem onWriteCmd_eq (w : Word) (s : State) : onWriteCmd w s = .next (s.issue (wordChecks w s)) := by
  unfold onWriteCmd wordChecks
  cases decodeCW w with
  | ok i => exact exec_eq i s
  | error _ => rfl

theorem wordChecks_ok {w : Word} {s : State} {c : Latched} (h : wordChecks w s = .ok c) :
    ∃ i, decodeCW w = .ok i ∧ issueChecks i s = .ok c := by
  unfold wordChecks at h
  cases hw : decodeCW w with
  | ok i => exact ⟨i, rfl, by simpa only [hw] using h⟩
  | error _ => simp [hw] at h

/-- The checks read registers, none of the surroundings. -/
theorem wordChecks_received (w : Word) (s : State) (es : List Input) (x : Response) :
    wordChecks w ((s.withInputs es).respond x) = wordChecks w s := by
  unfold wordChecks
  cases decodeCW w with
  | ok i => cases i <;> rfl
  | error _ => rfl

/-- The opcode and the operand fields R44 names for it, latched from the registers (R44, R96, R110). -/
structure Latched.OperandsOf (c : Latched) (i : Instr) (s : State) : Prop where
  op : c.op = opcodeOf i
  pe : c.op = .transmit → c.pe = s.pe
  ilv : c.op = .interleave ∨ c.op = .deinterleave → c.irows = s.irows ∧ c.icols = s.icols
  code : c.op = .encode ∨ c.op = .decode ∨ c.op = .checks → c.r = s.BR ∧ c.m = s.BM ∧ c.K = s.K ∧ c.N = s.N
  shape : c.op = .encode ∨ c.op = .matvec → c.grows = s.grows ∧ c.gcols = s.gcols
  cfg : c.op = .build → c.r = s.cfgR ∧ c.m = s.cfgM

theorem issueChecks_operands {i : Instr} {s : State} {c : Latched} (h : issueChecks i s = .ok c) :
    c.OperandsOf i s := by
  cases i with
  | build src dst =>
    obtain ⟨-, -, rfl⟩ := buildChecks_ok h
    constructor <;> simp [latch, opcodeOf]
  | encode src dst =>
    obtain ⟨-, -, -, -, -, -, -, rfl⟩ := encodeChecks_ok h
    constructor <;> simp [latch, opcodeOf]
  | matvec src dst =>
    obtain ⟨-, -, -, -, -, rfl⟩ := matvecChecks_ok h
    constructor <;> simp [latch, opcodeOf]
  | transmit src dst =>
    obtain ⟨-, -, -, rfl⟩ := transmitChecks_ok h
    constructor <;> simp [latch, opcodeOf]
  | decode src dst =>
    obtain ⟨-, -, -, -, rfl⟩ := decodeChecks_ok h
    constructor <;> simp [latch, opcodeOf]
  | interleave src dst =>
    obtain ⟨-, -, -, -, -, rfl⟩ := frameChecks_ok h
    constructor <;> simp [latch, opcodeOf]
  | deinterleave src dst =>
    obtain ⟨-, -, -, -, -, rfl⟩ := frameChecks_ok h
    constructor <;> simp [latch, opcodeOf]
  | checks src dst =>
    obtain ⟨-, -, -, -, -, rfl⟩ := checksChecks_ok h
    constructor <;> simp [latch, opcodeOf]

/-- Settles O54: the running command is what the checks gave (`issue_lc`), and they took it from the registers. -/
theorem acceptedIssueLatchesItsOperands : Obligations.AcceptedIssueLatchesItsOperands := by
  intro s t i c hb he hc
  cases (exec_eq i s).symm.trans he
  obtain ⟨op, pe, ilv, code, shape, cfg⟩ := issueChecks_operands (issue_lc hb hc)
  exact ⟨op, pe, ilv, code, shape, cfg⟩

/-- The command whose checks latched TRANSMIT is a TRANSMIT without an error (R150, R206). -/
theorem issueChecks_transmit {i : Instr} {s : State} {c : Latched} (h : issueChecks i s = .ok c)
    (hop : c.op = .transmit) : ∃ src dst, i = .transmit src dst ∧ firstError i s = none := by
  have op := (issueChecks_operands h).op
  cases i with
  | transmit src dst =>
    obtain ⟨hd, hp, hl, -⟩ := transmitChecks_ok h
    refine ⟨src, dst, rfl, ?_⟩
    simp [firstError, Instr.wf, needsBuilt, badParameter, badShape, badLength, badCapacity, isStream, blockIn,
      blockOut, Nat.mod_one, hd, hp.not_gt, hl.not_gt]
  | _ => exact absurd (hop.symm.trans op) (by simp [opcodeOf])

/-! ### What an issue leaves -/

section
variable (s : State) (checks : Except ErrCode Latched)

theorem issue_sameCode : SameCode s (s.issue checks) := by
  obtain ⟨-, e⟩ | ⟨-, code, -, e⟩ | ⟨-, c, -, e⟩ := issue_cases s checks <;> rw [e] <;> constructor <;> simp

theorem issue_env : (s.issue checks).env = s.env := by
  obtain ⟨-, e⟩ | ⟨-, code, -, e⟩ | ⟨-, c, -, e⟩ := issue_cases s checks <;> simp [e]

theorem issue_ie : (s.issue checks).ie = s.ie := by
  obtain ⟨-, e⟩ | ⟨-, code, -, e⟩ | ⟨-, c, -, e⟩ := issue_cases s checks <;> simp [e]

/-- An issue raises DROPPED only while a command runs (R32, R200). -/
theorem issue_dropped : s.busy = true ∨ (s.issue checks).dropped = s.dropped := by
  obtain ⟨hb, -⟩ | ⟨-, code, -, e⟩ | ⟨-, c, -, e⟩ := issue_cases s checks
  · exact .inl hb
  · simp [e]
  · simp [e]

/-- An issue changes FLIPS only by accepting a TRANSMIT in an idle machine, which sets it to 0 (R38, R200). -/
theorem issue_flips :
    (s.issue checks).flips = s.flips ∨
      (s.busy = false ∧ (s.issue checks).flips = 0#32 ∧ ∃ c, checks = .ok c ∧ c.op = .transmit) := by
  obtain ⟨-, e⟩ | ⟨-, code, -, e⟩ | ⟨hb, c, hc, e⟩ := issue_cases s checks
  · simp [e]
  · simp [e]
  · by_cases hop : c.op = .transmit
    · exact .inr ⟨hb, by simp [e, hop], c, hc, hop⟩
    · simp [e, hop]

end

/-- An issue that ends with an error has completed by its failure (R202). -/
theorem issue_error_done {s : State} {checks : Except ErrCode Latched} (hb : s.busy = false)
    (he : (s.issue checks).err ≠ .none) : (s.issue checks).done = true := by
  obtain ⟨h, -⟩ | ⟨-, code, -, e⟩ | ⟨-, c, -, e⟩ := issue_cases s checks
  · simp [h] at hb
  · simp [e]
  · simp [e] at he

/-- DONE and IE give irq (R210). -/
theorem irq_of_done {t : State} (hd : t.done = true) (hi : t.ie = true) : t.irq = true := by
  simp [State.irq, hd, hi]

/-- An issue in an idle machine that leaves it idle asserts irq while IE is set (R200, R202, R210). -/
theorem issue_irq {s : State} {checks : Except ErrCode Latched} (hb : s.busy = false)
    (ht : (s.issue checks).busy = false) (hi : s.ie = true) : (s.issue checks).irq = true :=
  irq_of_done (issue_done hb ht) ((issue_ie s checks).trans hi)

/-! ### What a sequencer step leaves -/

/-- Everything a sequencer step can do (R201). -/
theorem sequencerStep_cases (s : State) :
    (s.lc = none ∧ sequencerStep s = s) ∨
    (s.abortPending = true ∧ sequencerStep s = s.complete true) ∨
    ∃ c, s.lc = some c ∧ s.abortPending = false ∧
      (sequencerStep s = ((blockStep c s.blocks.toNat s).countBlock c).complete false ∨
        sequencerStep s = (blockStep c s.blocks.toNat s).countBlock c) := by
  cases hlc : s.lc with
  | none => exact .inl ⟨rfl, sequencerStep_idle hlc⟩
  | some c =>
    cases ha : s.abortPending with
    | true => exact .inr (.inl ⟨rfl, sequencerStep_abort hlc ha⟩)
    | false =>
      refine .inr (.inr ⟨c, rfl, rfl, ?_⟩)
      rw [sequencerStep_block hlc ha]
      exact ite_eq_or_eq ..

theorem sequencerStep_dropped (s : State) : (sequencerStep s).dropped = s.dropped := by
  obtain ⟨-, e⟩ | ⟨-, e⟩ | ⟨c, -, -, e | e⟩ := sequencerStep_cases s <;> simp [e]

/-- A sequencer step that ends the command completes it (R203). -/
theorem sequencerStep_done {s : State} (hb : s.busy = true) (ht : (sequencerStep s).busy = false) :
    (sequencerStep s).done = true := by
  obtain ⟨hlc, -⟩ | ⟨-, e⟩ | ⟨c, hlc, -, e | e⟩ := sequencerStep_cases s
  · simp [State.busy_eq, hlc] at hb
  · simp [e]
  · simp [e]
  · simp [State.busy_eq, e, hlc] at ht

/-- A sequencer step changes the built code only by BUILD's block step (R23, R24, R47). -/
theorem sequencerStep_sameCode (s : State) :
    SameCode s (sequencerStep s) ∨ ((∃ c, s.lc = some c ∧ c.op = .build) ∧ s.abortPending = false) := by
  obtain ⟨-, e⟩ | ⟨-, e⟩ | ⟨c, hlc, ha, e⟩ := sequencerStep_cases s
  · rw [e]; exact .inl ⟨rfl, rfl, rfl, rfl, rfl⟩
  · rw [e]; exact .inl ⟨rfl, rfl, rfl, rfl, rfl⟩
  · by_cases hop : c.op = .build
    · exact .inr ⟨⟨c, hlc, hop⟩, ha⟩
    · obtain ⟨h1, h2, h3, h4, h5⟩ := blockStep_sameCode hop s.blocks.toNat s
      left
      obtain e | e := e <;> rw [e] <;> exact ⟨h1, h2, h3, h4, h5⟩

/-- No sequencer step clears BUILT (R30): BUILD's block step sets it. -/
theorem sequencerStep_built {s : State} (hb : s.built = true) : (sequencerStep s).built = true := by
  have block (c : Latched) : (blockStep c s.blocks.toNat s).built = true := by
    by_cases hop : c.op = .build
    · rw [blockStep_build hop]; rfl
    · rw [(blockStep_sameCode hop _ s).built, hb]
  obtain ⟨-, e⟩ | ⟨-, e⟩ | ⟨c, -, -, e | e⟩ := sequencerStep_cases s <;> simp [e, hb, block]

/-- A sequencer step takes a draw or changes FLIPS only by TRANSMIT's block step (R38, R151). -/
theorem sequencerStep_noDraws (s : State) :
    NoDraws s (sequencerStep s) ∨ ((∃ c, s.lc = some c ∧ c.op = .transmit) ∧ s.abortPending = false) := by
  obtain ⟨-, e⟩ | ⟨-, e⟩ | ⟨c, hlc, ha, e⟩ := sequencerStep_cases s
  · rw [e]; exact .inl ⟨rfl, rfl, rfl⟩
  · rw [e]; exact .inl ⟨rfl, rfl, rfl⟩
  · by_cases hop : c.op = .transmit
    · exact .inr ⟨⟨c, hlc, hop⟩, ha⟩
    · obtain ⟨hf, he⟩ := blockStep_noDraws hop s.blocks.toNat s
      left
      obtain e | e := e <;> rw [e] <;> constructor <;> simp [hf, he]

/-! ### What a step of the machine can do -/

theorem SameCode.trans {s t u : State} (h : SameCode s t) (h' : SameCode t u) : SameCode s u :=
  ⟨h'.built.trans h.built, h'.BR.trans h.BR, h'.BM.trans h.BM, h'.K.trans h.K, h'.N.trans h.N⟩

/-- A host access that starts no command changes no built code, no LC, no FLIPS and takes no draw, and it does not raise
DROPPED (R32, R38, R47, R151). -/
structure PlainAccess (s t : State) : Prop where
  code : SameCode s t
  draws : NoDraws s t
  lc : t.lc = s.lc
  dropped : t.dropped = true → s.dropped = true

theorem PlainAccess.trans {s t u : State} (h : PlainAccess s t) (h' : PlainAccess t u) : PlainAccess s u where
  code := h.code.trans h'.code
  draws := ⟨h'.draws.port.trans h.draws.port, h'.draws.drawn.trans h.draws.drawn, h'.draws.flips.trans h.draws.flips⟩
  lc := h'.lc.trans h.lc
  dropped ht := h.dropped (h'.dropped ht)

theorem PlainAccess.busy {s t : State} (h : PlainAccess s t) : t.busy = s.busy := by
  rw [State.busy_eq, h.lc, State.busy_eq]

theorem PlainAccess.respond (s : State) (x : Response) : PlainAccess s (s.respond x) :=
  ⟨⟨rfl, rfl, rfl, rfl, rfl⟩, ⟨rfl, rfl, rfl⟩, rfl, id⟩

theorem PlainAccess.withInputs (s : State) (es : List Input) : PlainAccess s (s.withInputs es) :=
  ⟨⟨rfl, rfl, rfl, rfl, rfl⟩, ⟨rfl, rfl, rfl⟩, rfl, id⟩

theorem PlainAccess.putWord (s : State) (a : Nat) (v : Word) : PlainAccess s (s.putWord a v) :=
  ⟨⟨rfl, rfl, rfl, rfl, rfl⟩, ⟨rfl, rfl, rfl⟩, rfl, id⟩

theorem PlainAccess.storeReg (s : State) (r : Reg) (v : Word) : PlainAccess s (s.storeReg r v) := by
  obtain ⟨code, ⟨-, -, flips⟩, lc, -, -, -, -⟩ := QuietAccess.storeReg s r v
  have env : (s.storeReg r v).env = s.env := by cases r <;> rfl
  refine ⟨code, ⟨by rw [env], by rw [env], flips⟩, lc, ?_⟩
  cases r with
  | status => exact fun hd => (Bool.and_eq_true_iff.mp hd).1
  | _ => exact id

/-- The state in which a host's write is carried out: its input taken, the access answered. -/
theorem PlainAccess.received (s : State) (es : List Input) (x : Response) :
    PlainAccess s ((s.withInputs es).respond x) :=
  (PlainAccess.withInputs s es).trans (.respond _ x)

/-- Every step is a plain access of the host, the issue of a word it writes to CMD, a sequencer step or the reset. -/
theorem step_kinds {s t : State} (h : step s = .next t) :
    PlainAccess s t ∨
    (∃ w rest, s.env.inputs = .write .word cmdAddr w :: rest ∧
      t = ((s.withInputs rest).respond .written).issue (wordChecks w s)) ∨
    ((s.env.inputs = [] ∨ ∃ rest, s.env.inputs = .sequencer :: rest) ∧ ∃ es, t = sequencerStep (s.withInputs es)) ∨
    (∃ rest, s.env.inputs = .reset :: rest ∧ t = (s.withInputs rest).resetBlock) := by
  obtain ⟨hin, rfl⟩ | ⟨e, rest, hin, he⟩ := step_cases h
  · exact .inr (.inr (.inl ⟨.inl hin, s.env.inputs, rfl⟩))
  · have issued {w : Word} (hw : e = .write .word cmdAddr w) :
        t = ((s.withInputs rest).respond .written).issue (wordChecks w s) := by
      subst hw
      rw [runInput, hostWrite_cmd, onWriteCmd_eq, wordChecks_received] at he
      exact (Host.Outcome.next.inj he).symm
    have taken := PlainAccess.withInputs s rest
    obtain ⟨x, rfl⟩ | ⟨r, v, rfl⟩ | ⟨n, a, v, -, -, -, rfl⟩ | ⟨w, i, hw, -, -⟩ | ⟨w, x, hw, -, -⟩ | ⟨hs, rfl⟩ |
      ⟨hr, rfl⟩ := runInput_cases he
    · exact .inl (taken.trans (.respond _ x))
    · exact .inl ((taken.trans (.storeReg _ r v)).trans (.respond _ .written))
    · exact .inl ((taken.trans (.putWord _ a v)).trans (.respond _ .written))
    · exact .inr (.inl ⟨w, rest, hw ▸ hin, issued hw⟩)
    · exact .inr (.inl ⟨w, rest, hw ▸ hin, issued hw⟩)
    · exact .inr (.inr (.inl ⟨.inr ⟨rest, hs ▸ hin⟩, rest, rfl⟩))
    · exact .inr (.inr (.inr ⟨rest, hr ▸ hin, rfl⟩))

/-- A step whose input writes a word to CMD issues the word (R29, R200). -/
theorem step_write_cmd {s : State} {w : Word} {rest : List Input}
    (h : s.env.inputs = .write .word cmdAddr w :: rest) :
    step s = onWriteCmd w ((s.withInputs rest).respond .written) := by
  rw [step_input h, runInput, hostWrite_cmd]

/-! ### The step and its inputs -/

theorem decodeTableWord_eq_some {nbits w : Nat} {i : Instr} (h : decodeTableWord nbits w = some i) :
    decodeCW (tableWord nbits w) = .ok i := by
  have bytes := decodeBytes_bytesOfWord (tableWord nbits w) []
  rw [List.append_nil] at bytes
  rw [decodeTableWord, bytes] at h
  cases hw : decodeCW (tableWord nbits w) with
  | ok j => simpa [hw, Except.map] using h
  | error x => simp [hw, Except.map] at h

theorem onWriteCmd_ok {w : Word} {i : Instr} (h : decodeCW w = .ok i) (s : State) : onWriteCmd w s = exec i s := by
  simp only [onWriteCmd, h]

/-- Settles O6: the step issues the word (`step_write_cmd`), whose issue is its command's. -/
theorem stepRunsTheDecodedCommand : Obligations.StepRunsTheDecodedCommand := by
  refine ⟨fun s w i rest hin hw => ?_, fun s nbits w i hw => ?_⟩
  · rw [step_write_cmd hin, onWriteCmd_ok hw]
    rfl
  · rw [step_write_cmd (s := s.withFetchWord nbits w) rfl, onWriteCmd_ok (decodeTableWord_eq_some hw)]
    rfl

/-- Settles O7: a step is the sequencer's with no input waiting, and else that of the agent the input names. -/
theorem stepFollowsItsInputs : Obligations.StepFollowsItsInputs := by
  refine ⟨fun s => step_no_input, fun s hb => sequencerStep_idle ((State.busy_false_iff s).mp hb), ?_⟩
  intro s e rest hin
  rw [step_input hin]
  cases e <;> rfl

/-! ### The flags, the code and the draws over a step -/

/-- Settles O8: a CMD write in a busy state is dropped whatever its word, and of the four kinds of step only an issue in
a busy state raises DROPPED. -/
theorem commandWhileBusyIsDropped : Obligations.CommandWhileBusyIsDropped := by
  refine ⟨fun s w hb => ?_, fun s t h hs ht => ?_⟩
  · rw [hostWrite_cmd, onWriteCmd_busy w (s := s.respond .written) hb]
    rfl
  · obtain hp | ⟨w, rest, hin, rfl⟩ | ⟨-, es, rfl⟩ | ⟨rest, -, rfl⟩ := step_kinds h
    · simp [hp.dropped ht] at hs
    · obtain hb | hd := issue_dropped ((s.withInputs rest).respond .written) (wordChecks w s)
      · exact ⟨hb, w, rest, hin⟩
      · simp [hd, hs] at ht
    · simp [sequencerStep_dropped, hs] at ht
    · exact Bool.noConfusion ht

/-- Settles O46: a step that ends a command is the sequencer's, which sets DONE, or the reset; an issue that leaves the
machine idle or sets ERR sets DONE; and IE stays. -/
theorem interruptAssertsAtCompletion : Obligations.InterruptAssertsAtCompletion := by
  refine ⟨fun s => rfl, fun s t h hs ht hi => ?_, fun s t i hb he herr hi => ?_, fun s t i hb he ht hi => ?_,
    fun s t w hb he ht hi => ?_, fun s t w rest hin h hb ht hi => ?_⟩
  · obtain hp | ⟨w, rest, -, rfl⟩ | ⟨-, es, rfl⟩ | ⟨rest, hin, -⟩ := step_kinds h
    · simp [hp.busy, hs] at ht
    · rw [issue_busy (s := (s.withInputs rest).respond .written) hs] at ht
      exact Bool.noConfusion (hs.symm.trans ht)
    · exact .inl (irq_of_done (sequencerStep_done (s := s.withInputs es) hs ht) hi)
    · exact .inr ⟨rest, hin⟩
  · cases (exec_eq i s).symm.trans he
    exact irq_of_done (issue_error_done hb herr) ((issue_ie s _).trans hi)
  · cases (exec_eq i s).symm.trans he
    exact issue_irq hb ht hi
  · cases (onWriteCmd_eq w s).symm.trans he
    exact issue_irq hb ht hi
  · rw [step_write_cmd hin] at h
    cases (onWriteCmd_eq w _).symm.trans h
    exact issue_irq (s := (s.withInputs rest).respond .written) hb ht hi

/-- Settles O49: of the four kinds of step only a sequencer step that runs BUILD's block and the reset change the built
code, and BUILD's block sets BUILT. -/
theorem onlyBuildChangesTheCode : Obligations.OnlyBuildChangesTheCode := by
  refine ⟨fun s t h => ?_, fun s t h hb => ?_⟩
  · obtain hp | ⟨w, rest, -, rfl⟩ | ⟨hin, es, rfl⟩ | ⟨rest, hin, -⟩ := step_kinds h
    · exact .inl hp.code
    · exact .inl ((PlainAccess.received s rest .written).code.trans (issue_sameCode _ _))
    · obtain hc | ⟨hrun, ha⟩ := sequencerStep_sameCode (s.withInputs es)
      · exact .inl ((PlainAccess.withInputs s es).code.trans hc)
      · exact .inr (.inl ⟨hin, hrun, ha⟩)
    · exact .inr (.inr ⟨rest, hin⟩)
  · obtain hp | ⟨w, rest, -, rfl⟩ | ⟨-, es, rfl⟩ | ⟨rest, hin, -⟩ := step_kinds h
    · exact .inl (hp.code.built.trans hb)
    · exact .inl ((issue_sameCode _ _).built.trans hb)
    · exact .inl (sequencerStep_built (s := s.withInputs es) hb)
    · exact .inr ⟨rest, hin⟩

/-- Settles O50: of the four kinds of step only a sequencer step that runs TRANSMIT's block takes draws, and FLIPS
changes by it, by the issue of an accepted TRANSMIT and by the reset. -/
theorem flipsAndDrawsBelongToTransmit : Obligations.FlipsAndDrawsBelongToTransmit := by
  intro s t _ h
  obtain ⟨port, drawn, flips⟩ | ⟨w, rest, hin, rfl⟩ | ⟨hin, es, rfl⟩ | ⟨rest, hin, rfl⟩ :=
    (step_kinds h).imp_left PlainAccess.draws
  · exact ⟨.inr ⟨port, drawn⟩, .inl flips⟩
  · refine ⟨.inr ?_, ?_⟩
    · rw [issue_env]
      exact ⟨rfl, rfl⟩
    · obtain hf | ⟨hb, hf, c, hc, hop⟩ := issue_flips ((s.withInputs rest).respond .written) (wordChecks w s)
      · exact .inl hf
      · obtain ⟨i, hw, hi⟩ := wordChecks_ok hc
        obtain ⟨src, dst, rfl, hnone⟩ := issueChecks_transmit hi hop
        exact .inr (.inr (.inr ⟨hf, hb, w, rest, src, dst, hin, hw, hnone⟩))
  · obtain ⟨port, drawn, flips⟩ | ⟨hrun, ha⟩ := sequencerStep_noDraws (s.withInputs es)
    · exact ⟨.inr ⟨port, drawn⟩, .inl flips⟩
    · exact ⟨.inl ⟨hin, hrun, ha⟩, .inr (.inl ⟨hin, hrun, ha⟩)⟩
  · exact ⟨.inr ⟨rfl, rfl⟩, .inr (.inr (.inl ⟨rest, hin⟩))⟩

end Sys2Proof.Machine

/-! PROOF. Decode and encode agree (O3), and what the slave port and the sequencer do to the memories (O22, O34, O39,
O41, O42, O43). A host access to a memory is `hostRead_mem` and `hostWrite_mem`, with one lemma for a memory in use and
one for a memory not in use; a sequencer step leaves the memories or writes what its block step writes
(`sequencerStep_mem`), which is GRAM for BUILD and one output block for a stream command. -/

namespace Sys2Proof.Machine

/-! ### The command word -/

/-- A word is its four fields (R90). -/
theorem word_of_fields (w : Word) :
    cwRsv w ++ BitVec.ofBool (cwDst w).bit ++ BitVec.ofBool (cwSrc w).bit ++ cwOp w = w := by
  have bit_ofBit : ∀ x, (Buf.ofBit x).bit = x := fun x => by cases x <;> rfl
  refine BitVec.eq_of_getLsbD_eq fun i _ => ?_
  simp only [cwRsv, cwDst, cwSrc, cwOp, bit_ofBit, BitVec.getLsbD_append, BitVec.getLsbD_extractLsb',
    BitVec.getLsbD_ofBool]
  obtain h | rfl | rfl | h : i < 4 ∨ i = 4 ∨ i = 5 ∨ 6 ≤ i := by omega
  · simp [h]
  · simp
  · simp
  · have h4 : ¬ i < 4 := by omega
    have h5 : ¬ i - 4 < 1 := by omega
    have h6 : ¬ i - 4 - 1 < 1 := by omega
    have h26 : i - 4 - 1 - 1 < 26 := by omega
    have e : 6 + (i - 4 - 1 - 1) = i := by omega
    simp [h4, h5, h6, h26, e]

/-- The command of an OP and two buffers carries them (R90, R92). -/
theorem fields_of_instrOfOp {op : BitVec 4} {src dst : Buf} {i : Instr} (h : instrOfOp op src dst = some i) :
    opField i = op ∧ bufFields i = (src, dst) := by
  unfold instrOfOp at h
  split at h
  case h_9 => cases h
  all_goals
    next hop =>
      cases h
      exact ⟨(BitVec.eq_of_toNat_eq hop).symm, rfl⟩

/-- What a word that decodes has in its fields (R98). -/
theorem fields_of_decodeCW {w : Word} {i : Instr} (h : decodeCW w = .ok i) :
    cwRsv w = 0#26 ∧ instrOfOp (cwOp w) (cwSrc w) (cwDst w) = some i ∧ i.wf = true := by
  unfold decodeCW at h
  split at h
  · cases h
  · next rsv =>
    split at h
    · cases h
    · next instr =>
      split at h
      · next wf =>
        cases h
        exact ⟨not_not.mp rsv, instr, wf⟩
      · cases h

/-- The word of the command a word decodes to is that word (R90, R98). -/
theorem encode_of_decodeCW {w : Word} {i : Instr} (h : decodeCW w = .ok i) : i.wf = true ∧ encode i = w := by
  obtain ⟨rsv, instr, wf⟩ := fields_of_decodeCW h
  obtain ⟨op, bufs⟩ := fields_of_instrOfOp instr
  refine ⟨wf, ?_⟩
  rw [encode, op, bufs, ← rsv]
  exact word_of_fields w

/-- The word of a well-formed command decodes to it: the last part of the law of its constructor (R98). -/
theorem decodeCW_encode {i : Instr} (h : i.wf = true) : decodeCW (encode i) = .ok i := by
  have law : Laws.OpcodeField.Statement i := by
    cases i with
    | build src dst => exact Laws.OpcodeField.build src dst
    | encode src dst => exact Laws.OpcodeField.encode src dst
    | matvec src dst => exact Laws.OpcodeField.matvec src dst
    | transmit src dst => exact Laws.OpcodeField.transmit src dst
    | decode src dst => exact Laws.OpcodeField.decode src dst
    | interleave src dst => exact Laws.OpcodeField.interleave src dst
    | deinterleave src dst => exact Laws.OpcodeField.deinterleave src dst
    | checks src dst => exact Laws.OpcodeField.checks src dst
  obtain ⟨-, -, -, -, decoded⟩ := law
  rw [decoded, if_pos h]

/-- Settles O3: a word that decodes is the word of its fields (`encode_of_decodeCW`), and the word of a well-formed
command decodes to it (`decodeCW_encode`), as do the word's bytes. -/
theorem decodeAndEncodeAgree : Obligations.DecodeAndEncodeAgree := by
  refine ⟨fun w i => ⟨encode_of_decodeCW, ?_⟩, fun i rest h => ?_⟩
  · rintro ⟨h, rfl⟩
    exact decodeCW_encode h
  · rw [encodeBytes, decodeBytes_bytesOfWord, decodeCW_encode h]
    rfl

/-! ### Accesses without a memory -/

/-- Settles O39: the port supports no such access, and answers both a bus error. -/
theorem unsupportedAccessIsABusError : Obligations.UnsupportedAccessIsABusError := by
  intro s width addr v h
  have unsupported : ¬ supported width addr = true := by
    simp only [supported, Bool.and_eq_true, beq_iff_eq, not_and_or]
    exact h
  exact ⟨if_neg unsupported, if_neg unsupported⟩

/-- No store to a register but STATUS touches a flag (R31, R70). -/
theorem storeReg_sameFlags (s : State) {r : Reg} (v : Word) (h : r ≠ .status) : SameFlags s (s.storeReg r v) := by
  cases r with
  | status => exact absurd rfl h
  | _ => exact ⟨rfl, rfl, rfl, rfl⟩

/-- No store to a register but ABORT requests an abort (R37, R70). -/
theorem storeReg_sameCommand (s : State) {r : Reg} (v : Word) (h : r ≠ .abort) :
    SameCommand s (s.storeReg r v) := by
  cases r with
  | abort => exact absurd rfl h
  | _ => exact ⟨rfl, rfl⟩

theorem storeReg_env (s : State) (r : Reg) (v : Word) : (s.storeReg r v).env = s.env := by
  cases r <;> rfl

/-- Settles O34: a read only answers, and a write other than to CMD is a store, which leaves the code, the counts and
the memories in every register, the flags in all but STATUS, and the command in all but ABORT. -/
theorem registerAccessesHaveNoOtherEffect : Obligations.RegisterAccessesHaveNoOtherEffect := by
  refine ⟨hostRead_reg, fun s r v hcmd habort hstatus => ⟨_, hostWrite_reg s v hcmd, ?_⟩⟩
  obtain ⟨done, dropped, aborted, err⟩ := storeReg_sameFlags s v hstatus
  obtain ⟨lc, abortPending⟩ := storeReg_sameCommand s v habort
  obtain ⟨⟨built, BR, BM, K, N⟩, ⟨outlen, blocks, flips⟩, -, -, -, -, -⟩ := QuietAccess.storeReg s r v
  exact ⟨⟨done, dropped, aborted, err⟩, ⟨outlen, blocks, flips⟩, ⟨built, BR, BM, K, N⟩, ⟨lc, abortPending⟩,
    fun a _ _ => State.byteAt_congr (State.storeReg_mem s r v) (by simp [storeReg_env]) a⟩

/-! ### Host accesses to a memory -/

/-- The window of the stream buffers (R62, R63). -/
theorem targetOf_buf {a : Nat} (h1 : 0x4000 ≤ a) (h2 : a < 0x8000) : ∃ b, targetOf a = .mem (.buf b) := by
  unfold targetOf
  rw [if_neg (by omega), if_neg (by omega)]
  by_cases h : a < 0x6000
  · exact ⟨.buf0, if_pos h⟩
  · exact ⟨.buf1, by rw [if_neg h, if_pos h2]⟩

/-- The window of GRAM (R62, R65). -/
theorem targetOf_gram {a : Nat} (h1 : 0x8000 ≤ a) (h2 : a < 0xA000) : targetOf a = .mem .gram := by
  unfold targetOf
  rw [if_neg (by omega), if_neg (by omega), if_neg (by omega), if_neg (by omega), if_pos h2]

/-- Every window address from BUF0's base to GRAM's end is a memory's (R62). -/
theorem targetOf_of_inside {a : Nat} (h1 : memLo ≤ a) (h2 : a < memHi) : ∃ n, targetOf a = .mem n := by
  by_cases h : a < 0x8000
  · obtain ⟨b, hb⟩ := targetOf_buf h1 h
    exact ⟨_, hb⟩
  · exact ⟨_, targetOf_gram (not_lt.mp h) h2⟩

section
variable {s : State} {addr : BitVec 16} {n : MemName}

theorem hostRead_mem (h4 : addr.toNat % 4 = 0) (ht : targetOf addr.toNat = .mem n) :
    hostRead .word addr s = hostMemRead n addr.toNat s := by
  simp [hostRead, supported, h4, ht]

theorem hostWrite_mem (v : Word) (h4 : addr.toNat % 4 = 0) (ht : targetOf addr.toNat = .mem n) :
    hostWrite .word addr v s = hostMemWrite n addr.toNat v s := by
  simp [hostWrite, supported, h4, ht]

/-- An access to a memory in use is unpredictable (R69). -/
theorem host_access_faults (v : Word) (h4 : addr.toNat % 4 = 0) (ht : targetOf addr.toNat = .mem n)
    (hu : s.inUse n = true) :
    hostRead .word addr s = .fault .unpredictableAccess ∧
      hostWrite .word addr v s = .fault .unpredictableAccess := by
  rw [hostRead_mem h4 ht, hostWrite_mem v h4 ht]
  exact ⟨if_pos hu, if_pos hu⟩

/-- An access to a memory not in use reads or writes the word (R64, R68). -/
theorem host_access_plain (v : Word) (h4 : addr.toNat % 4 = 0) (ht : targetOf addr.toNat = .mem n)
    (hu : s.inUse n = false) :
    hostRead .word addr s = .next (s.respond (.data (s.wordAt addr.toNat))) ∧
      hostWrite .word addr v s = .next ((s.putWord addr.toNat v).respond .written) := by
  rw [hostRead_mem h4 ht, hostWrite_mem v h4 ht]
  exact ⟨if_neg (by simp [hu]), if_neg (by simp [hu])⟩

end

theorem byteAt_putWord_outside (s : State) (w : Word) {a x : Nat} (h : x < a ∨ a + 4 ≤ x) :
    (s.putWord a w).byteAt x = s.byteAt x :=
  State.byteAt_putBytes_outside s a 4 _ h

/-- No memory is in use while no command runs (R69). -/
theorem inUse_idle {s : State} (h : s.busy = false) (n : MemName) : s.inUse n = false := by
  simp [State.inUse, (State.busy_false_iff s).mp h]

/-- Settles O41: no memory is in use, so the access writes its word, which reads back (`State.wordAt_putWord`), and the
write leaves every other byte and every register. -/
theorem memoryWordReadsBack : Obligations.MemoryWordReadsBack := by
  intro s addr v hb h4 h1 h2
  obtain ⟨n, ht⟩ := targetOf_of_inside h1 h2
  obtain ⟨-, write⟩ := host_access_plain (s := s) v h4 ht (inUse_idle hb n)
  obtain ⟨read, -⟩ :=
    host_access_plain (s := (s.putWord addr.toNat v).respond .written) v h4 ht (inUse_idle hb n)
  have back : ((s.putWord addr.toNat v).respond .written).wordAt addr.toNat = v := s.wordAt_putWord addr.toNat v
  rw [back] at read
  exact ⟨_, write, read, fun a ha => byteAt_putWord_outside s v ha, ⟨rfl, rfl, rfl, rfl, rfl, rfl, rfl⟩, ⟨rfl, rfl⟩,
    ⟨rfl, rfl, rfl, rfl, rfl⟩, ⟨rfl, rfl, rfl, rfl⟩, ⟨rfl, rfl, rfl⟩, ⟨rfl, rfl⟩⟩

/-- Two different buffers are all the buffers there are (R48). -/
theorem eq_or_eq_of_ne {src dst : Buf} (h : src ≠ dst) (b : Buf) : b = src ∨ b = dst := by
  cases src <;> cases dst <;> cases b <;> simp at h ⊢

/-- A stream command, whose buffers differ, uses both stream buffers, and BUILD uses none (R69, R80, R94). -/
theorem uses_buf {c : Latched} (h : c.op ≠ .build → c.src ≠ c.dst) (b : Buf) :
    c.uses (.buf b) = true ↔ c.op ≠ .build := by
  cases hop : c.op with
  | build => simp [Latched.uses, hop]
  | _ =>
    have both := eq_or_eq_of_ne (h (by simp [hop])) b
    simp [Latched.uses, hop, both]

/-- BUILD, ENCODE and MATVEC use GRAM, and no other command does (R69; log 11). -/
theorem uses_gram (c : Latched) :
    c.uses .gram = true ↔ c.op = .build ∨ c.op = .encode ∨ c.op = .matvec := by
  cases hop : c.op <;> simp [Latched.uses, hop]

/-- Settles O43: the memory of the address is in use exactly as `uses_buf` and `uses_gram` say, and the access is then
`host_access_faults`, else `host_access_plain`. -/
theorem memoryInUseIsUnpredictable : Obligations.MemoryInUseIsUnpredictable := by
  intro s c addr v hs hc h4
  have inUse (n : MemName) : s.inUse n = c.uses n := by simp [State.inUse, hc]
  obtain ⟨running, -, -, -⟩ := hs.running c hc
  have bufs := uses_buf (c := c) fun hop => (running.buffers hop).1
  refine ⟨fun hop h1 h2 => ?_, fun hop h1 h2 => ?_, fun hop => ?_⟩
  · obtain ⟨b, ht⟩ := targetOf_buf h1 h2
    exact host_access_faults v h4 ht ((inUse _).trans ((bufs b).mpr hop))
  · exact host_access_faults v h4 (targetOf_gram h1 h2) ((inUse _).trans ((uses_gram c).mpr hop))
  · have free : ∃ n, targetOf addr.toNat = .mem n ∧ s.inUse n = false := by
      obtain ⟨hop, h1, h2⟩ | ⟨hb, he, hm, h1, h2⟩ := hop
      · obtain ⟨b, ht⟩ := targetOf_buf h1 h2
        exact ⟨_, ht, (inUse _).trans (Bool.eq_false_iff.mpr fun hu => (bufs b).mp hu hop)⟩
      · refine ⟨_, targetOf_gram h1 h2, (inUse _).trans (Bool.eq_false_iff.mpr fun hu => ?_)⟩
        simp [uses_gram, hb, he, hm] at hu
    obtain ⟨n, ht, hu⟩ := free
    obtain ⟨read, write⟩ := host_access_plain v h4 ht hu
    exact ⟨read, _, write, s.wordAt_putWord _ v, fun a ha => byteAt_putWord_outside s v ha, rfl, rfl⟩

/-! ### Bits and words -/

/-- Settles O42: a bit of a word is a bit of one of its bytes (`State.wordAt_getLsbD`), and a block of one bit is written
inside its buffer (`State.bufBit_setBufBits`). -/
theorem streamAndGramBitsAreWordBits : Obligations.StreamAndGramBitsAreWordBits := by
  refine ⟨fun s b i => ?_, fun s i j _ => ?_, fun s b b' i i' v hi hi' => ?_⟩
  · have byte : bufBase b + i / 8 = bufBase b + 4 * (i / 32) + i % 32 / 8 := by omega
    have bit : i % 8 = i % 32 % 8 := by omega
    rw [State.wordAt_getLsbD _ _ _ (by omega), State.bufBit, byte, bit]
  · have byte : gramBase + 32 * i + j / 8 = 0x8000 + 4 * (8 * i + j / 32) + j % 32 / 8 := by
      simp only [gramBase]
      omega
    have bit : j % 8 = j % 32 % 8 := by omega
    rw [State.wordAt_getLsbD _ _ _ (by omega), State.gBit, byte, bit]
  · by_cases hb : b' = b
    · subst hb
      have single : i ≤ i' ∧ i' < i + 1 ↔ i' = i := by omega
      simp only [State.bufBit_setBufBits, single, true_and]
    · rw [State.bufBit_setBufBits_other s i 1 _ hb (by omega) hi', if_neg fun h => hb h.1]

/-! ### What a sequencer step writes -/

/-- A sequencer step leaves the memories (its abort) or writes what its block step writes (R201, R203). -/
theorem sequencerStep_mem {s : State} {c : Latched} (h : s.lc = some c) :
    (sequencerStep s).mem = s.mem ∨ (sequencerStep s).mem = (blockStep c s.blocks.toNat s).mem := by
  obtain ⟨-, e⟩ | ⟨-, e⟩ | ⟨d, hd, -, e⟩ := sequencerStep_cases s
  · simp [e]
  · simp [e]
  · cases h.symm.trans hd
    obtain e | e := e <;> simp [e]

/-- No sequencer step is a reset (R231). -/
theorem sequencerStep_epoch (s : State) : (sequencerStep s).env.epoch = s.env.epoch := by
  have block (c : Latched) (t : Nat) : (blockStep c t s).env.epoch = s.env.epoch := by
    by_cases hop : c.op = .transmit
    · rw [blockStep_transmit t s hop]
      rfl
    · rw [(blockStep_noDraws hop t s).2]
  obtain ⟨-, e⟩ | ⟨-, e⟩ | ⟨c, -, -, e | e⟩ := sequencerStep_cases s <;> simp [e, block]

/-- BUILD writes no byte outside GRAM (R80, R110). -/
theorem sequencerStep_build_byteAt {s : State} {c : Latched} (h : s.lc = some c) (hop : c.op = .build) {a : Nat}
    (ha : a < gramBase) : (sequencerStep s).byteAt a = s.byteAt a := by
  obtain e | e := sequencerStep_mem h
  · exact State.byteAt_congr e (sequencerStep_epoch s) a
  · rw [blockStep_build hop] at e
    calc (sequencerStep s).byteAt a
        = (s.setGram (builtEntry c.r.toNat c.m.toNat)).byteAt a :=
          State.byteAt_congr (t := sequencerStep s) e (sequencerStep_epoch s) a
      _ = s.byteAt a := State.byteAt_setGram_outside s _ (.inl ha)

/-- A step of a stream command leaves the memories or writes its output block, and nothing else of them (R67, R71). -/
theorem sequencerStep_stream_byteAt {s : State} {c : Latched} (h : s.lc = some c) (hop : c.op ≠ .build) :
    (∀ a, (sequencerStep s).byteAt a = s.byteAt a) ∨
      ∃ f, ∀ a, (sequencerStep s).byteAt a = (s.putBlock c s.blocks.toNat f).byteAt a := by
  obtain e | e := sequencerStep_mem h
  · exact .inl (State.byteAt_congr e (sequencerStep_epoch s))
  · obtain ⟨f, hf⟩ := blockStep_stream hop s.blocks.toNat s
    rw [hf] at e
    exact .inr ⟨f, State.byteAt_congr (t := sequencerStep s) e (sequencerStep_epoch s)⟩

/-- Settles O22: BUILD's step writes GRAM only, and a stream command's writes its output block, which lies inside the
destination (`block_end_le`), so outside the source and GRAM. -/
theorem blockStepWritesOnlyItsBlock : Obligations.BlockStepWritesOnlyItsBlock := by
  intro s c hs hc
  obtain ⟨running, -, -, -⟩ := hs.running c hc
  refine ⟨fun hop a _ ha => sequencerStep_build_byteAt hc hop ha, fun hop => ?_⟩
  obtain e | ⟨f, e⟩ := sequencerStep_stream_byteAt hc hop
  · exact ⟨fun i _ _ => by simp only [State.bufBit, e], fun i _ => by simp only [State.bufBit, e], fun a _ _ => e a⟩
  · have bits : ∀ b i, (sequencerStep s).bufBit b i = (s.putBlock c s.blocks.toNat f).bufBit b i :=
      fun b i => by simp only [State.bufBit, e]
    have inside := block_end_le running.next running.output
    refine ⟨fun i _ hi => ?_, fun i hi => ?_, fun a h1 _ => ?_⟩
    · rw [Nat.succ_mul] at hi
      rw [bits, State.putBlock, State.bufBit_setBufBits, if_neg (by omega)]
    · rw [bits, State.putBlock, State.bufBit_setBufBits_other s _ _ f (running.buffers hop).1 inside hi]
    · have below := bitSpan_inside inside
      rw [e, State.putBlock, State.byteAt_setBufBits_outside s c.dst _ _ f]
      cases c.dst <;> simp only [bufBase, gramBase] at h1 ⊢ <;> omega

end Sys2Proof.Machine

/-! PROOF. The command words (O1, O2, O4), the commands that no word names (O5), and what an issue without an error
latches (O10). The listed words are exactly the words of the well-formed commands, so they are the words that decode
(`decodeCW_iff_listed`); a command without an error passes its issue checks (`issueChecks_of_noError`). -/

namespace Sys2Proof.Machine

/-! ### The listed words -/

/-- Each listed word is the word of its well-formed command (R90, R99). -/
theorem listedWords_encode : ∀ p ∈ listedWords, p.2.wf = true ∧ encode p.2 = p.1 := by decide

/-- The list of R99 misses no well-formed command: the choices of SRC and DST of each. -/
theorem encode_mem_listedWords {i : Instr} (h : i.wf = true) : (encode i, i) ∈ listedWords := by
  cases i with
  | _ src dst => cases src <;> cases dst <;> revert h <;> decide

/-- The words that decode are the listed ones (R98, R99). -/
theorem decodeCW_iff_listed {w : Word} {i : Instr} : decodeCW w = .ok i ↔ (w, i) ∈ listedWords := by
  refine ⟨fun h => ?_, fun h => ?_⟩
  · obtain ⟨wf, rfl⟩ := encode_of_decodeCW h
    exact encode_mem_listedWords wf
  · obtain ⟨wf, word⟩ := listedWords_encode _ h
    exact (congrArg decodeCW word).symm.trans (decodeCW_encode wf)

/-- Settles O2: the words that decode are the listed ones (`decodeCW_iff_listed`). -/
theorem onlyListedWordsAreLegal : Obligations.OnlyListedWordsAreLegal := by
  refine ⟨fun p hp => decodeCW_iff_listed.mpr hp, rfl, fun w hw => ?_⟩
  cases hd : decodeCW w with
  | error e => exact ⟨e, rfl⟩
  | ok i => exact absurd (List.mem_map_of_mem (decodeCW_iff_listed.mp hd)) hw

/-- Settles O1: each of the nine words is the word of its command, which is well-formed (`decodeCW_encode`). -/
theorem listedCommandWordsDecode : Obligations.ListedCommandWordsDecode :=
  ⟨decodeCW_encode (i := .build .buf0 .buf0) rfl, decodeCW_encode (i := .build .buf1 .buf1) rfl,
    decodeCW_encode (i := .encode .buf0 .buf1) rfl, decodeCW_encode (i := .matvec .buf1 .buf0) rfl,
    decodeCW_encode (i := .transmit .buf0 .buf1) rfl, decodeCW_encode (i := .decode .buf1 .buf0) rfl,
    decodeCW_encode (i := .interleave .buf0 .buf1) rfl, decodeCW_encode (i := .deinterleave .buf1 .buf0) rfl,
    decodeCW_encode (i := .checks .buf0 .buf1) rfl⟩

/-! ### Illegal words and ill-formed commands -/

/-- No listed word is one of those R93, R94 and R95 make illegal. -/
theorem listedWords_legal : ∀ p ∈ listedWords, ¬ illegalWord p.1 := by
  unfold illegalWord
  decide

/-- An illegal word decodes to no command, because the words that decode are listed (R98, R99). -/
theorem wordChecks_illegalWord {w : Word} (h : illegalWord w) (s : State) :
    wordChecks w s = .error .illegalCommand := by
  unfold wordChecks
  cases hd : decodeCW w with
  | error e => rfl
  | ok i => exact absurd h (listedWords_legal _ (decodeCW_iff_listed.mp hd))

/-- Settles O4: the write of an illegal word is an issue whose checks give IllegalCommand (`wordChecks_illegalWord`),
which fails in an idle machine. -/
theorem illegalWordsCompleteAtIssue : Obligations.IllegalWordsCompleteAtIssue := by
  intro s w hb hw
  rw [hostWrite_cmd, onWriteCmd_eq, wordChecks_illegalWord hw, issue_error (s := s.respond .written) hb]
  rfl

/-- The ill-formed commands are the stream commands with SRC = DST (R94). -/
theorem wf_eq_false_iff (i : Instr) : i.wf = false ↔ isStream i = true ∧ (bufFields i).1 = (bufFields i).2 := by
  cases i <;> simp [Instr.wf, isStream, bufFields]

/-- The first check of a stream command is that its buffers differ (R94, R206). -/
theorem issueChecks_stream {i : Instr} (h : isStream i = true) (s : State) :
    ∃ rest, issueChecks i s = distinctBufs (bufFields i).1 (bufFields i).2 rest := by
  cases i with
  | build src dst => exact Bool.noConfusion h
  | _ src dst => exact ⟨_, rfl⟩

theorem issueChecks_illFormed {i : Instr} (h : i.wf = false) (s : State) :
    issueChecks i s = .error .illegalCommand := by
  obtain ⟨stream, same⟩ := (wf_eq_false_iff i).mp h
  obtain ⟨rest, e⟩ := issueChecks_stream stream s
  rw [e, distinctBufs, if_pos same]

/-- Settles O5: the checks of an ill-formed command give IllegalCommand (`issueChecks_illFormed`), and those of BUILD
take no buffer. -/
theorem streamCommandsNeedTwoBuffers : Obligations.StreamCommandsNeedTwoBuffers := by
  refine ⟨fun s i hb hi => ?_, wf_eq_false_iff, fun s a b => rfl⟩
  rw [exec_eq, issueChecks_illFormed hi, issue_error hb]
  rfl

/-! ### The accepted issue -/

/-- The error tables of R204 to R206 as bounds on the registers: none of their causes holds of the command. -/
structure NoError (i : Instr) (s : State) : Prop where
  wf : i.wf = true
  built : needsBuilt i = true → s.built = true
  parameter : badParameter i s = false
  shape : badShape i s = false
  length : isStream i = true → s.len.toNat % blockIn i s = 0
  capacity : isStream i = true → s.len.toNat ≤ 65536 ∧ s.len.toNat / blockIn i s * blockOut i s ≤ 65536

theorem ite_some_eq_none {p : Prop} [Decidable p] {e : ErrCode} {x : Option ErrCode} :
    (if p then some e else x) = none ↔ ¬p ∧ x = none := by
  split <;> simp_all

/-- A command without a first error has none of the errors. -/
theorem noError_of_firstError {i : Instr} {s : State} (h : firstError i s = none) : NoError i s := by
  simp only [firstError, ite_some_eq_none] at h
  obtain ⟨wf, built, parameter, shape, length, capacity, -⟩ := h
  refine ⟨by simpa using wf, by simpa using built, by simpa using parameter, by simpa using shape, fun stream => ?_,
    fun stream => ?_⟩
  · simpa [badLength, stream] using length
  · simpa [badCapacity, stream] using capacity

/-- The frame of an interleaver command without an InvalidParameter is not empty (R190, R204). -/
theorem frame_ne_zero {s : State} (h : (s.irows == 0#16 || s.icols == 0#16) = false) :
    s.irows.toNat ≠ 0 ∧ s.icols.toNat ≠ 0 := by
  simpa [← BitVec.toNat_inj] using h

/-- The checks of a command without an error pass (R205, R206). -/
theorem issueChecks_of_noError {i : Instr} {s : State} (h : NoError i s) : ∃ c, issueChecks i s = .ok c := by
  obtain ⟨wf, built, parameter, shape, length, capacity⟩ := h
  cases i with
  | build src dst =>
    obtain ⟨hm, hr⟩ : s.cfgM.toNat ≤ 8 ∧ s.cfgR.toNat ≤ s.cfgM.toNat := by
      simpa [badParameter] using parameter
    exact ⟨_, buildChecks_passed hm hr⟩
  | encode src dst =>
    obtain ⟨hg, hg'⟩ : s.grows = s.K ∧ s.gcols = s.N := by simpa [badShape] using shape
    obtain ⟨hl, ho⟩ := capacity rfl
    exact ⟨_, encodeChecks_passed (bne_iff_ne.mp wf) (built rfl) hg hg' (length rfl) hl ho⟩
  | matvec src dst =>
    obtain ⟨⟨⟨ha, ha'⟩, hb⟩, hb'⟩ :
        ((1 ≤ s.grows.toNat ∧ s.grows.toNat ≤ 256) ∧ 1 ≤ s.gcols.toNat) ∧ s.gcols.toNat ≤ 256 := by
      simpa only [badShape, Bool.not_eq_false', Bool.and_eq_true, decide_eq_true_eq] using shape
    obtain ⟨hl, ho⟩ := capacity rfl
    exact ⟨_, matvecChecks_passed (bne_iff_ne.mp wf) ha ha' hb hb' (length rfl) hl ho⟩
  | transmit src dst =>
    have hp : s.pe.toNat ≤ 65536 := by simpa [badParameter] using parameter
    exact ⟨_, transmitChecks_passed (bne_iff_ne.mp wf) hp (capacity rfl).1⟩
  | decode src dst => exact ⟨_, decodeChecks_passed (bne_iff_ne.mp wf) (built rfl) (length rfl) (capacity rfl).1⟩
  | interleave src dst =>
    obtain ⟨hr, hc⟩ := frame_ne_zero parameter
    exact ⟨_, frameChecks_passed (bne_iff_ne.mp wf) hr hc (length rfl) (capacity rfl).1⟩
  | deinterleave src dst =>
    obtain ⟨hr, hc⟩ := frame_ne_zero parameter
    exact ⟨_, frameChecks_passed (bne_iff_ne.mp wf) hr hc (length rfl) (capacity rfl).1⟩
  | checks src dst =>
    obtain ⟨hl, ho⟩ := capacity rfl
    exact ⟨_, checksChecks_passed (bne_iff_ne.mp wf) (built rfl) (length rfl) hl ho⟩

/-- The buffers and the geometry a command latches (R44, R97). -/
structure Latched.GeometryOf (c : Latched) (i : Instr) (s : State) : Prop where
  bufs : isStream i = true → c.src = (bufFields i).1 ∧ c.dst = (bufFields i).2
  T : c.T = blockCount i s
  IB : c.IB = blockIn i s
  OB : c.OB = blockOut i s

theorem issueChecks_geometry {i : Instr} {s : State} {c : Latched} (h : issueChecks i s = .ok c) :
    c.GeometryOf i s := by
  cases i with
  | build src dst =>
    obtain ⟨-, -, rfl⟩ := buildChecks_ok h
    exact ⟨fun stream => Bool.noConfusion stream, rfl, rfl, rfl⟩
  | encode src dst =>
    obtain ⟨-, -, -, -, -, -, -, rfl⟩ := encodeChecks_ok h
    exact ⟨fun _ => ⟨rfl, rfl⟩, rfl, rfl, rfl⟩
  | matvec src dst =>
    obtain ⟨-, -, -, -, -, rfl⟩ := matvecChecks_ok h
    exact ⟨fun _ => ⟨rfl, rfl⟩, rfl, rfl, rfl⟩
  | transmit src dst =>
    obtain ⟨-, -, -, rfl⟩ := transmitChecks_ok h
    exact ⟨fun _ => ⟨rfl, rfl⟩, (Nat.div_one _).symm, rfl, rfl⟩
  | decode src dst =>
    obtain ⟨-, -, -, -, rfl⟩ := decodeChecks_ok h
    exact ⟨fun _ => ⟨rfl, rfl⟩, rfl, rfl, rfl⟩
  | interleave src dst =>
    obtain ⟨-, -, -, -, -, rfl⟩ := frameChecks_ok h
    exact ⟨fun _ => ⟨rfl, rfl⟩, rfl, rfl, rfl⟩
  | deinterleave src dst =>
    obtain ⟨-, -, -, -, -, rfl⟩ := frameChecks_ok h
    exact ⟨fun _ => ⟨rfl, rfl⟩, rfl, rfl, rfl⟩
  | checks src dst =>
    obtain ⟨-, -, -, -, -, rfl⟩ := checksChecks_ok h
    exact ⟨fun _ => ⟨rfl, rfl⟩, rfl, rfl, rfl⟩

/-- Settles O10: the checks pass (`issueChecks_of_noError`) and give the command with its opcode and geometry
(`issueChecks_operands`, `issueChecks_geometry`), and an accepted command runs or completes by its T. -/
theorem acceptedIssueLatchesTheCommand : Obligations.AcceptedIssueLatchesTheCommand := by
  intro s i _ hb hi
  obtain ⟨c, hc⟩ := issueChecks_of_noError (noError_of_firstError hi)
  have op := (issueChecks_operands hc).op
  obtain ⟨bufs, T, IB, OB⟩ := issueChecks_geometry hc
  have hostRegs : SameHostRegs s (s.beginIssue.accept c) := by constructor <;> simp
  have shape : SameShape s (s.beginIssue.accept c) := by constructor <;> simp
  have code : SameCode s (s.beginIssue.accept c) := by constructor <;> simp
  have memory : SameMemory s (s.beginIssue.accept c) := fun a _ _ => State.byteAt_congr (by simp) (by simp) a
  have completes (hT : blockCount i s = 0) :
      (s.beginIssue.accept c).busy = false ∧ (s.beginIssue.accept c).done = true := by
    simp [State.busy_eq, State.accept_lc, State.accept_done, T, hT]
  have runs (hT : blockCount i s ≠ 0) :
      (s.beginIssue.accept c).done = false ∧ (s.beginIssue.accept c).lc = some c := by
    simp [State.accept_lc, State.accept_done, T, hT]
  refine ⟨s.beginIssue.accept c, by rw [exec_eq, hc, issue_ok hb], ?_⟩
  refine ⟨State.accept_err _ c, by simp [State.accept_aborted], State.accept_abortPending _ c, State.accept_dropped _ c,
    State.accept_outlen _ c, State.accept_blocks _ c, op ▸ State.accept_flips _ c, completes, fun hT => ?_,
    hostRegs, shape, code, memory, State.accept_env _ c⟩
  obtain ⟨done, lc⟩ := runs hT
  exact ⟨done, c, lc, op, bufs, T, IB, OB⟩

end Sys2Proof.Machine

/-! PROOF. The matrix builder: the order of the generator rows (O24), the checks of a monomial and their duality to
the rows (O26), and BUILD from its issue to its completion (O14). A check and a monomial ask something of each
coordinate on its own, so the positions that meet both are counted by a product over the coordinates
(`countP_everyCoord`); the size of a check and the parity of a check sum over a row are both read off it. -/

namespace Sys2Proof.Machine

/-! ### The monomials -/

/-- The monomials of degree `d` are the ascending lists of `d` elements of {1..m} (R113). -/
theorem mem_monosOfDegree {m d : Nat} {S : List Nat} :
    S ∈ monosOfDegree m d ↔ S.Pairwise (· < ·) ∧ (∀ i ∈ S, 1 ≤ i ∧ i ≤ m) ∧ S.length = d := by
  have mem (i : Nat) : i ∈ List.range' 1 m ↔ 1 ≤ i ∧ i ≤ m := by
    rw [List.mem_range'_1]
    omega
  have rising : (List.range' 1 m).Pairwise (· < ·) := List.pairwise_lt_range' 1
  rw [monosOfDegree, mem_choices]
  constructor
  · rintro ⟨hs, hd⟩
    exact ⟨rising.sublist hs, fun i hi => (mem i).mp (hs.subset hi), hd⟩
  · rintro ⟨hs, hi, hd⟩
    have sub : S ⊆ List.range' 1 m := fun i h => (mem i).mpr (hi i h)
    exact ⟨List.sublist_of_subperm_of_pairwise (List.subperm_of_subset hs.nodup sub) hs rising, hd⟩

theorem mem_monos {r m : Nat} {S : List Nat} :
    S ∈ monos r m ↔ S.Pairwise (· < ·) ∧ (∀ i ∈ S, 1 ≤ i ∧ i ≤ m) ∧ S.length ≤ r := by
  simp only [monos, List.mem_flatMap, List.mem_range, mem_monosOfDegree]
  constructor
  · rintro ⟨d, hd, hs, hi, hl⟩
    exact ⟨hs, hi, by omega⟩
  · rintro ⟨hs, hi, hl⟩
    exact ⟨S.length, by omega, hs, hi, rfl⟩

/-- The choices from an ascending list stand in lexicographic order: those with its first element come first. -/
theorem choices_pairwise_lex {xs : List Nat} (d : Nat) (h : xs.Pairwise (· < ·)) :
    (choices xs d).Pairwise (List.Lex (· < ·)) := by
  induction xs generalizing d with
  | nil => cases d <;> simp [choices]
  | cons x xs ih =>
    obtain ⟨hx, hxs⟩ := List.pairwise_cons.mp h
    cases d with
    | zero => simp [choices]
    | succ d =>
      refine List.pairwise_append.mpr ⟨?_, ih _ hxs, ?_⟩
      · exact List.pairwise_map.mpr ((ih d hxs).imp .cons)
      · intro S hS S' hS'
        obtain ⟨R, -, rfl⟩ := List.mem_map.mp hS
        obtain ⟨sub, len⟩ := mem_choices.mp hS'
        cases S' with
        | nil => simp at len
        | cons y ys => exact .rel (hx y (sub.subset List.mem_cons_self))

/-- The generator rows stand by degree, then lexicographically (R113). -/
theorem monos_ordered (r m : Nat) :
    (monos r m).Pairwise fun S S' => S.length < S'.length ∨ (S.length = S'.length ∧ List.Lex (· < ·) S S') := by
  refine List.pairwise_flatMap.mpr ⟨fun d _ => ?_, List.pairwise_lt_range.imp fun hd S hS S' hS' => .inl ?_⟩
  · refine (choices_pairwise_lex d (List.pairwise_lt_range' 1)).imp_of_mem fun hS hS' hlex => .inr ⟨?_, hlex⟩
    rw [length_of_mem_choices hS, length_of_mem_choices hS']
  · rwa [length_of_mem_monosOfDegree hS, length_of_mem_monosOfDegree hS']

theorem monoAt_eq_true {S : List Nat} {j : Nat} : monoAt S j = true ↔ ∀ i ∈ S, coord i j = true := List.all_eq_true

theorem genEntry_of_getElem? {r m t : Nat} {S : List Nat} (h : (monos r m)[t]? = some S) (j : Nat) :
    genEntry r m t j = monoAt S j := by
  simp [genEntry, h]

/-- Settles O24: the rows are the ascending lists (`mem_monos`), in the order in which `choices` picks them degree by
degree (`monos_ordered`). -/
theorem generatorRowsInOrder : Obligations.GeneratorRowsInOrder :=
  ⟨fun r m _ => ⟨monos_length r m, fun _ => mem_monos, monos_ordered r m,
    fun _ _ hS j => ⟨genEntry_of_getElem? hS j, monoAt_eq_true⟩⟩, fun _ _ => rfl, by decide, by decide⟩

/-! ### The checks of a monomial -/

theorem mem_outside {m : Nat} {S : List Nat} {i : Nat} : i ∈ outside m S ↔ 1 ≤ i ∧ i ≤ m ∧ i ∉ S := by
  simp only [outside, List.mem_filter, List.mem_range'_1, List.contains_eq_mem, Bool.not_eq_true', decide_eq_false_iff_not,
    ← and_assoc]
  exact and_congr_left fun _ => by omega

theorem outside_rising (m : Nat) (S : List Nat) : (outside m S).Pairwise (· < ·) :=
  (List.pairwise_lt_range' 1).filter _

/-- The coordinates outside a monomial of degree `d` are the other m - d. -/
theorem outside_length {m d : Nat} {S : List Nat} (h : S ∈ monosOfDegree m d) : (outside m S).length = m - d := by
  obtain ⟨rising, inside, len⟩ := mem_monosOfDegree.mp h
  have eq : (outside m S).toFinset = Finset.Icc 1 m \ S.toFinset := by
    ext i
    simp [mem_outside, and_assoc]
  have sub : S.toFinset ⊆ Finset.Icc 1 m := fun i hi => by simpa using inside i (by simpa using hi)
  rw [← List.toFinset_card_of_nodup (outside_rising m S).nodup, eq, Finset.card_sdiff_of_subset sub,
    List.toFinset_card_of_nodup rising.nodup, Nat.card_Icc, len]
  rfl

theorem coordsMatch_eq_true {ts : List Nat} {l b j : Nat} :
    coordsMatch ts l b j = true ↔ ∀ k t, ts[k]? = some t → coord t j = b.testBit (l + k) := by
  induction ts generalizing l with
  | nil => simp [coordsMatch]
  | cons t ts ih =>
    simp only [coordsMatch, Bool.and_eq_true, beq_iff_eq, ih]
    constructor
    · rintro ⟨h0, hs⟩ k t' hk
      cases k with
      | zero => cases hk; exact h0
      | succ k => exact (hs k t' hk).trans (congrArg b.testBit (by omega))
    · exact fun h => ⟨h 0 t rfl, fun k t' hk => (h (k + 1) t' hk).trans (congrArg b.testBit (by omega))⟩

/-- Check `b` fixes the l-th coordinate outside the monomial to bit `l` of `b` (R115). -/
theorem inCheck_eq_true {m b j : Nat} {S : List Nat} :
    inCheck m S b j = true ↔ ∀ l t, (outside m S)[l]? = some t → coord t j = b.testBit l := by
  simp [inCheck, coordsMatch_eq_true]

/-- The number whose bit `l` is the l-th coordinate of `j` outside the monomial: the check that holds `j`. -/
def checkOf (m : Nat) (S : List Nat) (j : Nat) : Nat :=
  Nat.ofBits fun l : Fin (outside m S).length => coord (outside m S)[l] j

theorem checkOf_lt (m : Nat) (S : List Nat) (j : Nat) : checkOf m S j < 2 ^ (outside m S).length :=
  Nat.ofBits_lt_two_pow _

/-- Of the checks of a monomial, `j` is in `checkOf` and in no other (R117). -/
theorem inCheck_iff_checkOf {m b j : Nat} {S : List Nat} (hb : b < 2 ^ (outside m S).length) :
    inCheck m S b j = true ↔ b = checkOf m S j := by
  rw [inCheck_eq_true]
  constructor
  · intro h
    apply Nat.eq_of_testBit_eq
    intro l
    by_cases hl : l < (outside m S).length
    · rw [checkOf, Nat.testBit_ofBits_lt _ l hl]
      exact (h l _ (List.getElem?_eq_getElem hl)).symm
    · have hpow : 2 ^ (outside m S).length ≤ 2 ^ l := Nat.pow_le_pow_right (by decide) (by omega)
      rw [Nat.testBit_lt_two_pow (hb.trans_le hpow), Nat.testBit_lt_two_pow ((checkOf_lt m S j).trans_le hpow)]
  · rintro rfl l t ht
    obtain ⟨hl, rfl⟩ := List.getElem?_eq_some_iff.mp ht
    rw [checkOf, Nat.testBit_ofBits_lt _ l hl]
    rfl

/-! ### Counting positions by their coordinates -/

/-- The predicate on positions that asks `p i` of each coordinate `i` of {1..m}. -/
def everyCoord (m : Nat) (p : Nat → Bool → Bool) (j : Nat) : Bool := (List.range' 1 m).all fun i => p i (coord i j)

theorem everyCoord_succ (m : Nat) (p : Nat → Bool → Bool) (j : Nat) :
    everyCoord (m + 1) p j = (everyCoord m p j && p (m + 1) (j.testBit m)) := by
  simp [everyCoord, List.range'_concat, Nat.add_comm 1 m, coord]

/-- Adding 2^m to a position changes none of the coordinates 1..m. -/
theorem everyCoord_two_pow_add (m : Nat) (p : Nat → Bool → Bool) (j : Nat) :
    everyCoord m p (2 ^ m + j) = everyCoord m p j := by
  have same (i : Nat) (hi : i ∈ List.range' 1 m) : coord i (2 ^ m + j) = coord i j := by
    rw [List.mem_range'_1] at hi
    exact Nat.testBit_two_pow_add_gt (by omega) j
  rw [Bool.eq_iff_iff, everyCoord, everyCoord, List.all_eq_true, List.all_eq_true]
  exact forall₂_congr fun i hi => by rw [same i hi]

/-- The coordinates are independent: the positions below 2^m that meet `p` are as many as the product, over the
coordinates, of how many values each may take. -/
theorem countP_everyCoord (m : Nat) (p : Nat → Bool → Bool) :
    (List.range (2 ^ m)).countP (everyCoord m p) = ∏ i ∈ Finset.Icc 1 m, ((p i false).toNat + (p i true).toNat) := by
  induction m with
  | zero => simp [everyCoord]
  | succ m ih =>
    have low : (List.range (2 ^ m)).countP (everyCoord (m + 1) p) =
        (List.range (2 ^ m)).countP (everyCoord m p) * (p (m + 1) false).toNat := by
      rw [List.countP_congr (q := fun j => everyCoord m p j && p (m + 1) false)]
      · cases p (m + 1) false <;> simp
      · intro j hj
        rw [everyCoord_succ, Nat.testBit_lt_two_pow (List.mem_range.mp hj)]
    have high : ((List.range (2 ^ m)).map (2 ^ m + ·)).countP (everyCoord (m + 1) p) =
        (List.range (2 ^ m)).countP (everyCoord m p) * (p (m + 1) true).toNat := by
      rw [List.countP_map, List.countP_congr (q := fun j => everyCoord m p j && p (m + 1) true)]
      · cases p (m + 1) true <;> simp
      · intro j hj
        rw [Function.comp, everyCoord_succ, everyCoord_two_pow_add, Nat.testBit_two_pow_add_eq,
          Nat.testBit_lt_two_pow (List.mem_range.mp hj), Bool.not_false]
    rw [Nat.pow_succ, Nat.mul_two, List.range_add, List.countP_append, low, high,
      Finset.prod_Icc_succ_top (by omega), ih, Nat.mul_add]

/-- What check `b` and the monomial `S'` ask of coordinate `i`: its bit of `b` outside `S`, and 1 in `S'`. -/
def coordAllowed (m : Nat) (S S' : List Nat) (b i : Nat) (v : Bool) : Bool :=
  (S.contains i || v == b.testBit ((outside m S).idxOf i)) && (!S'.contains i || v)

/-- Check `b` asks of each coordinate outside the monomial the bit of `b` at its place among them. -/
theorem inCheck_eq_true_iff_mem {m b j : Nat} {S : List Nat} :
    inCheck m S b j = true ↔ ∀ i ∈ outside m S, coord i j = b.testBit ((outside m S).idxOf i) := by
  rw [inCheck_eq_true]
  constructor
  · exact fun h i hi => h _ i (List.getElem?_idxOf hi)
  · intro h l t ht
    obtain ⟨hl, rfl⟩ := List.getElem?_eq_some_iff.mp ht
    rw [h _ (List.getElem_mem hl), (outside_rising m S).nodup.idxOf_getElem l hl]

theorem coordAllowed_eq_true {m b i : Nat} {S S' : List Nat} {v : Bool} :
    coordAllowed m S S' b i v = true ↔
      (i ∉ S → v = b.testBit ((outside m S).idxOf i)) ∧ (i ∈ S' → v = true) := by
  simp [coordAllowed, or_iff_not_imp_left]

theorem inCheck_and_monoAt (m b : Nat) (S : List Nat) {S' : List Nat} (hS' : ∀ i ∈ S', 1 ≤ i ∧ i ≤ m) (j : Nat) :
    (inCheck m S b j && monoAt S' j) = everyCoord m (coordAllowed m S S' b) j := by
  rw [Bool.eq_iff_iff, Bool.and_eq_true, inCheck_eq_true_iff_mem, monoAt_eq_true, everyCoord, List.all_eq_true]
  simp only [coordAllowed_eq_true, mem_outside, List.mem_range'_1]
  constructor
  · rintro ⟨check, mono⟩ i ⟨h1, h2⟩
    exact ⟨fun hi => check i ⟨h1, by omega, hi⟩, mono i⟩
  · refine fun allowed => ⟨fun i ⟨h1, h2, hi⟩ => ?_, fun i hi => ?_⟩
    · obtain ⟨check, -⟩ := allowed i ⟨h1, by omega⟩
      exact check hi
    · obtain ⟨h1, h2⟩ := hS' i hi
      obtain ⟨-, mono⟩ := allowed i ⟨h1, by omega⟩
      exact mono hi

/-- How many values coordinate `i` may take in check `b` of `S` where the monomial `S'` is 1. -/
def coordChoices (m : Nat) (S S' : List Nat) (b i : Nat) : Nat :=
  (coordAllowed m S S' b i false).toNat + (coordAllowed m S S' b i true).toNat

theorem countP_inCheck_and_monoAt (m b : Nat) (S : List Nat) {S' : List Nat} (hS' : ∀ i ∈ S', 1 ≤ i ∧ i ≤ m) :
    (List.range (2 ^ m)).countP (fun j => inCheck m S b j && monoAt S' j) =
      ∏ i ∈ Finset.Icc 1 m, coordChoices m S S' b i := by
  rw [funext (inCheck_and_monoAt m b S hS'), countP_everyCoord]
  rfl

theorem coordChoices_free {m b i : Nat} {S S' : List Nat} (h : i ∈ S) (h' : i ∉ S') : coordChoices m S S' b i = 2 := by
  simp [coordChoices, coordAllowed, h, h']

theorem coordChoices_both {m b i : Nat} {S S' : List Nat} (h : i ∈ S) (h' : i ∈ S') : coordChoices m S S' b i = 1 := by
  simp [coordChoices, coordAllowed, h, h']

theorem coordChoices_neither {m b i : Nat} {S S' : List Nat} (h : i ∉ S) (h' : i ∉ S') :
    coordChoices m S S' b i = 1 := by
  cases hb : b.testBit ((outside m S).idxOf i) <;> simp [coordChoices, coordAllowed, h, h', hb]

/-- A check of a monomial of degree `d` has 2^d positions: only the coordinates of the monomial are free (R117). -/
theorem countP_inCheck {m d : Nat} {S : List Nat} (h : S ∈ monosOfDegree m d) (b : Nat) :
    (List.range (2 ^ m)).countP (inCheck m S b) = 2 ^ d := by
  obtain ⟨rising, inside, len⟩ := mem_monosOfDegree.mp h
  have choices (i : Nat) : coordChoices m S [] b i = if i ∈ S then 2 else 1 := by
    split
    · next hi => exact coordChoices_free hi List.not_mem_nil
    · next hi => exact coordChoices_neither hi List.not_mem_nil
  have members : (Finset.Icc 1 m).filter (· ∈ S) = S.toFinset := by
    ext i
    simpa using inside i
  calc (List.range (2 ^ m)).countP (inCheck m S b)
      = (List.range (2 ^ m)).countP (fun j => inCheck m S b j && monoAt [] j) := by simp [monoAt]
    _ = ∏ i ∈ Finset.Icc 1 m, coordChoices m S [] b i := countP_inCheck_and_monoAt m b S (by simp)
    _ = 2 ^ S.toFinset.card := by simp [choices, Finset.prod_ite, members]
    _ = 2 ^ d := by rw [List.toFinset_card_of_nodup rising.nodup, len]

/-! ### The duality -/

/-- A sum over GF(2) is the parity of how many of its terms are 1. -/
theorem xorSum_eq_parity (f : Nat → Bool) (count : Nat) :
    xorSum f count = decide ((List.range count).countP f % 2 = 1) := by
  induction count with
  | zero => rfl
  | succ n ih =>
    rw [xorSum, ih, List.range_succ, List.countP_append, List.countP_singleton]
    cases f n with
    | false => simp
    | true =>
      rw [Bool.xor_true, ← decide_not, decide_eq_decide, if_pos rfl]
      omega

/-- A monomial that contains another of no lower degree is that one. -/
theorem eq_of_subset_of_degree_le {m d d' : Nat} {S S' : List Nat} (hS : S ∈ monosOfDegree m d)
    (hS' : S' ∈ monosOfDegree m d') (hd : d' ≤ d) (hsub : S ⊆ S') : S' = S := by
  obtain ⟨rising, -, len⟩ := mem_monosOfDegree.mp hS
  obtain ⟨rising', -, len'⟩ := mem_monosOfDegree.mp hS'
  have perm := (List.subperm_of_subset rising.nodup hsub).perm_of_length_le (by omega)
  exact (perm.eq_of_pairwise' rising rising').symm

/-- The check sum of a generator row (R117): where the row's monomial lacks a coordinate of `S`, that coordinate is
free and the 1s of the row in the check pair off; in the row of `S` itself one position of the check is left. -/
theorem checkSum_monoAt {m d d' : Nat} {S S' : List Nat} (hS : S ∈ monosOfDegree m d) (hS' : S' ∈ monosOfDegree m d')
    (hd : d' ≤ d) (b : Nat) : checkSum m S b (monoAt S') = decide (S' = S) := by
  obtain ⟨-, inside', -⟩ := mem_monosOfDegree.mp hS'
  rw [checkSum, codeLen, xorSum_eq_parity, countP_inCheck_and_monoAt m b S inside']
  by_cases hsub : S ⊆ S'
  · obtain rfl := eq_of_subset_of_degree_le hS hS' hd hsub
    have one (i : Nat) : coordChoices m S' S' b i = 1 := by
      by_cases hi : i ∈ S'
      · exact coordChoices_both hi hi
      · exact coordChoices_neither hi hi
    simp [one]
  · obtain ⟨i, hi, hi'⟩ : ∃ i ∈ S, i ∉ S' := by simpa [List.subset_def] using hsub
    have ne : S' ≠ S := fun e => hi' (e ▸ hi)
    obtain ⟨-, inside, -⟩ := mem_monosOfDegree.mp hS
    have even : 2 ∣ ∏ i ∈ Finset.Icc 1 m, coordChoices m S S' b i :=
      coordChoices_free (m := m) (b := b) hi hi' ▸ Finset.dvd_prod_of_mem _ (Finset.mem_Icc.mpr (inside i hi))
    simp [ne, Nat.mod_eq_zero_of_dvd even]

/-- Settles O26: the coordinates outside the monomial are `outside`, each position is in the check `checkOf` names
(`inCheck_iff_checkOf`), and the size of a check and its sum over a row are counted by the coordinates
(`countP_inCheck`, `checkSum_monoAt`). -/
theorem checksAreDualToTheRows : Obligations.ChecksAreDualToTheRows := by
  intro m d S hS
  have len := outside_length hS
  refine ⟨fun T rising mem => ?_, fun b y => rfl, fun b _ => countP_inCheck hS b, fun j _ => ?_,
    fun d' S' hd hS' b _ => checkSum_monoAt hS hS' hd b⟩
  · obtain rfl : T = outside m S := rising.eq_of_mem_iff (outside_rising m S) fun i => (mem i).trans mem_outside.symm
    exact ⟨len, fun b j => inCheck_eq_true⟩
  · rw [← len]
    exact ⟨checkOf m S j, checkOf_lt m S j, (inCheck_iff_checkOf (checkOf_lt m S j)).mpr rfl,
      fun b' hb' hj => (inCheck_iff_checkOf hb').mp hj⟩

/-! ### BUILD -/

theorem builtEntry_eq_genEntry (r m i j : Nat) :
    builtEntry r m i j = (decide (i < codeDim r m) && decide (j < 2 ^ m) && genEntry r m i j) := by
  have entry : builtEntry r m i j =
      (decide (i < codeDim r m) && decide (j < 2 ^ m) && monoAt ((monos r m).getD i []) j) := rfl
  cases hS : (monos r m)[i]? with
  | none =>
    have hi : ¬ i < codeDim r m := monos_length r m ▸ (List.getElem?_eq_none_iff.mp hS).not_gt
    simp [entry, hi]
  | some S => simp [entry, genEntry_of_getElem? hS, hS]

/-- BUILD leaves the generator matrix in GRAM (R110, R111, R114). -/
theorem gBit_buildBlock (c : Latched) (s : State) {i j : Nat} (hi : i < 256) (hj : j < 256) :
    (buildBlock c s).gBit i j =
      (decide (i < codeDim c.r.toNat c.m.toNat) && decide (j < 2 ^ c.m.toNat) &&
        genEntry c.r.toNat c.m.toNat i j) :=
  (State.gBit_setGram s _ hi hj).trans (builtEntry_eq_genEntry _ _ i j)

/-- BUILD leaves every byte below GRAM (R62, R110). -/
theorem byteAt_buildBlock (c : Latched) (s : State) {a : Nat} (ha : a < gramBase) :
    (buildBlock c s).byteAt a = s.byteAt a :=
  State.byteAt_setGram_outside s _ (.inl ha)

/-- The one block step of a BUILD completes it (R110, R201). -/
theorem sequencerStep_build {s : State} {c : Latched} (hc : s.lc = some c) (hop : c.op = .build) (hT : c.T = 1)
    (hb : s.blocks = 0#32) (ha : s.abortPending = false) :
    sequencerStep s = ((buildBlock c s).countBlock c).complete false := by
  have counted : ((buildBlock c s).countBlock c).blocks = s.blocks + 1#32 := rfl
  have last : ((buildBlock c s).countBlock c).blocks.toNat = c.T := by rw [counted, hb, hT]; rfl
  rw [sequencerStep_block hc ha, blockStep_build hop, if_pos last]

/-- Settles O14: the issue is accepted (`buildChecks_passed`), and its one step is `buildBlock` and the completion
(`sequencerStep_build`). -/
theorem buildRunsToCompletion : Obligations.BuildRunsToCompletion := by
  intro s src dst hb hm hr
  let c : Latched := { latch .build .buf0 .buf0 1 0 0 with r := s.cfgR, m := s.cfgM }
  have issued : exec (.build src dst) s = .next (s.beginIssue.accept c) := by
    rw [exec_eq, issueChecks, buildChecks_passed hm hr, issue_ok hb]
  have accepted := accept_running s.beginIssue (c := c) one_ne_zero
  have lc : (s.beginIssue.accept c).lc = some c := State.accept_lc _ c
  refine ⟨_, issued, (State.busy_true_iff _).mpr ⟨c, lc⟩, ?_⟩
  rw [sequencerStep_build lc rfl rfl (State.accept_blocks _ c) (State.accept_abortPending _ c), accepted]
  obtain ⟨-, -, dimension, length⟩ := (buildBlock_codeFits (c := c) s hr hm).isBuilt rfl
  exact ⟨⟨rfl, rfl, rfl, rfl, rfl, rfl, rfl⟩, rfl, rfl, rfl, dimension, length, rfl, rfl,
    fun i hi j hj => gBit_buildBlock c _ hi hj, fun a _ ha => byteAt_buildBlock c _ ha,
    ⟨rfl, rfl, rfl, rfl, rfl, rfl, rfl⟩, rfl, rfl, rfl⟩

end Sys2Proof.Machine

/-! PROOF. The laws of the multiplier (O23), and MATVEC and ENCODE from their issue to their completion (O16, O15): both
have one block step, the product of the source block and the matrix in GRAM (`issue_product_run`). -/

namespace Sys2Proof.Machine

/-! ### The multiplier -/

theorem xorSum_unit {e count : Nat} (h : e < count) (f : Nat → Bool) :
    xorSum (fun i => decide (i = e) && f i) count = f e := by
  induction count with
  | zero => omega
  | succ n ih =>
    by_cases he : e = n
    · subst he
      have before : xorSum (fun i => decide (i = e) && f i) e = xorSum (fun _ => false) e :=
        xorSum_congr fun i hi => by simp [hi.ne]
      simp [xorSum, before, xorSum_false]
    · simp [xorSum, ih (by omega), Ne.symm he]

/-- Settles O23: a product is a sum over GF(2), which is additive, and the sum against a unit vector is its one term
(`xorSum_unit`). -/
theorem multiplierIsLinear : Obligations.MultiplierIsLinear := by
  refine fun s a j => ⟨fun x y => ?_, ?_, fun e he => xorSum_unit he (s.gBit · j)⟩
  · simp only [matVec, Bool.and_xor_distrib_right, xorSum_xor]
  · simp only [matVec, Bool.false_and, xorSum_false]

/-! ### ENCODE and MATVEC -/

/-- ENCODE's block step is MATVEC's: the product of the source block and the matrix in GRAM (R131, R135). -/
theorem blockStep_product {c : Latched} (hop : c.op = .encode ∨ c.op = .matvec) (fits : c.Fits) (k : Nat) (u : State) :
    blockStep c k u = u.putBlock c k (matVec u c.IB (u.srcBit c k)) := by
  obtain hop | hop := hop <;> simp only [Latched.Fits, hop] at fits
  · rw [blockStep_encode k u hop, fits.1]
  · rw [blockStep_matvec k u hop, fits.1]

/-- The run of an accepted ENCODE or MATVEC whose matrix lies inside GRAM (R65, R130). -/
theorem issue_product_run {c : Latched} {s : State} (hb : s.busy = false) (hc : c.Admissible)
    (hop : c.op = .encode ∨ c.op = .matvec) (hI : c.IB ≤ 256) (hO : c.OB ≤ 256) :
    Completed c.T c.OB (sequencerRun c.T (s.issue (.ok c))) ∧
    (∀ b < c.T, ∀ j < c.OB, (sequencerRun c.T (s.issue (.ok c))).bufBit c.dst (b * c.OB + j) =
      xorSum (fun i => s.bufBit c.src (b * c.IB + i) && s.gBit i j) c.IB) ∧
    OnlyStream c.dst (c.T * c.OB) s (sequencerRun c.T (s.issue (.ok c))) ∧
    StreamFrame s (sequencerRun c.T (s.issue (.ok c))) ∧ NoDraws s (sequencerRun c.T (s.issue (.ok c))) := by
  have notBuild : c.op ≠ .build := by obtain h | h := hop <;> simp [h]
  have notTransmit : c.op ≠ .transmit := by obtain h | h := hop <;> simp [h]
  refine issue_block_run hb notBuild notTransmit rfl rfl rfl rfl rfl (hc.buffers notBuild).1 hc.count hc.input
    hc.output ?_
  intro k _ u source gram
  refine ⟨_, blockStep_product hop hc.fits k u, fun j hj => xorSum_congr fun i hi => ?_⟩
  rw [source i hi, gram i (by omega) j (by omega)]

/-- Settles O16: the checks pass (`matvecChecks_passed`), and the run writes the products (`issue_product_run`). -/
theorem matvecRunsToCompletion : Obligations.MatvecRunsToCompletion := by
  intro s src dst hb hd ha ha' hn hn' hl hc ho
  have passed := matvecChecks_passed hd ha ha' hn hn' hl hc ho
  exact ⟨_, by rw [exec_eq, issueChecks, passed],
    issue_product_run hb (matvecChecks_admissible passed) (.inr rfl) ha' hn'⟩

/-- Settles O15: the checks pass (`encodeChecks_passed`), and the run writes the products (`issue_product_run`). -/
theorem encodeRunsToCompletion : Obligations.EncodeRunsToCompletion := by
  intro s src dst hs hb hd built hg hg' hl hc ho
  have passed := encodeChecks_passed hd built hg hg' hl hc ho
  obtain ⟨-, hK, hN⟩ := (builtDimensionsAreBounded s hs).1 built
  exact ⟨_, by rw [exec_eq, issueChecks, passed],
    issue_product_run hb (encodeChecks_admissible hs passed) (.inl rfl) (hK.trans hN) hN⟩

end Sys2Proof.Machine

/-! PROOF. The round trip of ENCODE and DECODE (O32). By the duality of `checkSum_monoAt`, the checks of a stage see of
the residual the coefficient of their own monomial and the errors in them (`checkSum_received`); so each stage decides
the coefficients of its degree and leaves the block received for the rows below (`decodeStages_received`). -/

namespace Sys2Proof.Machine

/-! ### Rows and their sums -/

/-- The generator rows of degree below `d`, by degree: those that stages d - 1, …, 0 decide (R113, R168). -/
def rowsBelow (m d : Nat) : List (List Nat) := (List.range d).flatMap (monosOfDegree m)

theorem monos_eq_rowsBelow (r m : Nat) : monos r m = rowsBelow m (r + 1) := rfl

theorem rowsBelow_succ (m d : Nat) : rowsBelow m (d + 1) = rowsBelow m d ++ monosOfDegree m d := by
  simp [rowsBelow, List.range_succ]

theorem mem_rowsBelow {m d : Nat} {S : List Nat} : S ∈ rowsBelow m d ↔ ∃ d' < d, S ∈ monosOfDegree m d' := by
  simp [rowsBelow]

theorem monosOfDegree_nodup (m d : Nat) : (monosOfDegree m d).Nodup :=
  (choices_pairwise_lex d (List.pairwise_lt_range' 1)).imp fun {S S'} h e => by
    subst e
    exact List.lex_irrefl (fun _ => Nat.lt_irrefl _) S h

theorem xorSum_succ_left (f : Nat → Bool) (count : Nat) :
    xorSum f (count + 1) = xor (f 0) (xorSum (fun i => f (i + 1)) count) := by
  induction count with
  | zero => simp [xorSum]
  | succ n ih => rw [xorSum, ih, xorSum, Bool.xor_assoc]

theorem contribution_append {Ss Ss' : List (List Nat)} {us us' : List Bool} (h : us.length = Ss.length) (j : Nat) :
    contribution (Ss ++ Ss') (us ++ us') j = xor (contribution Ss us j) (contribution Ss' us' j) := by
  induction Ss generalizing us with
  | nil => simp [List.length_eq_zero_iff.mp h, contribution]
  | cons S Ss ih =>
    cases us with
    | nil => simp at h
    | cons u us => simp [contribution, ih (Nat.succ.inj h)]

/-- The sum of the rows at `j` that the coefficients pick, as the sum over the places of the rows (R114, R170). -/
theorem contribution_eq_xorSum (Ss : List (List Nat)) (us : List Bool) (j : Nat) :
    contribution Ss us j = xorSum (fun t => us.getD t false && Ss[t]?.any (monoAt · j)) Ss.length := by
  induction Ss generalizing us with
  | nil => rfl
  | cons S Ss ih =>
    rw [List.length_cons, xorSum_succ_left]
    cases us with
    | nil => simp [contribution, xorSum_false]
    | cons u us => simp [contribution, ih]

theorem genEntry_eq_any (r m t j : Nat) : genEntry r m t j = (monos r m)[t]?.any (monoAt · j) := by
  unfold genEntry
  cases (monos r m)[t]? <;> rfl

/-- The codeword of a message is the sum of the rows its bits pick (R114, R135). -/
theorem contribution_monos (r m : Nat) (u : List Bool) (j : Nat) :
    contribution (monos r m) u j = xorSum (fun t => u.getD t false && genEntry r m t j) (codeDim r m) := by
  simp only [contribution_eq_xorSum, monos_length, genEntry_eq_any]

/-! ### Check sums of a received block -/

theorem checkSum_congr {m b : Nat} {S : List Nat} {y z : Nat → Bool} (h : ∀ j < codeLen m, y j = z j) :
    checkSum m S b y = checkSum m S b z :=
  xorSum_congr fun j hj => by rw [h j hj]

theorem checkSum_xor (m b : Nat) (S : List Nat) (y z : Nat → Bool) :
    checkSum m S b (fun j => xor (y j) (z j)) = xor (checkSum m S b y) (checkSum m S b z) := by
  simp only [checkSum, Bool.and_xor_distrib_left, xorSum_xor]

theorem checkSum_and (m b : Nat) (S : List Nat) (u : Bool) (y : Nat → Bool) :
    checkSum m S b (fun j => u && y j) = (u && checkSum m S b y) := by
  cases u <;> simp [checkSum, xorSum_false]

theorem checkSum_zero (m b : Nat) (S : List Nat) : checkSum m S b (fun _ => false) = false := by
  simp [checkSum, xorSum_false]

section
variable {m d : Nat} {S : List Nat}

/-- What a check sees of a sum of rows of no higher degree: the coefficient of its own monomial among them (R117). -/
theorem checkSum_contribution_cons (hS : S ∈ monosOfDegree m d) {S' : List Nat}
    (hS' : ∃ d' ≤ d, S' ∈ monosOfDegree m d') (Ss : List (List Nat)) (u : Bool) (us : List Bool) (b : Nat) :
    checkSum m S b (contribution (S' :: Ss) (u :: us)) =
      xor (u && decide (S' = S)) (checkSum m S b (contribution Ss us)) := by
  obtain ⟨d', hd, hS'⟩ := hS'
  rw [← checkSum_monoAt hS hS' hd b, ← checkSum_and, ← checkSum_xor]
  rfl

/-- A check does not see the other rows of no higher degree (R117). -/
theorem checkSum_contribution_of_notMem (hS : S ∈ monosOfDegree m d) {Ss : List (List Nat)}
    (hSs : ∀ S' ∈ Ss, ∃ d' ≤ d, S' ∈ monosOfDegree m d') (h : S ∉ Ss) (us : List Bool) (b : Nat) :
    checkSum m S b (contribution Ss us) = false := by
  induction Ss generalizing us with
  | nil => exact checkSum_zero m b S
  | cons S' Ss ih =>
    rw [List.forall_mem_cons] at hSs
    rw [List.mem_cons, not_or] at h
    cases us with
    | nil => exact checkSum_zero m b S
    | cons u us =>
      rw [checkSum_contribution_cons hS hSs.1, ih hSs.2 h.2]
      simp [Ne.symm h.1]

/-- A check sees the coefficient of its own monomial (R117). -/
theorem checkSum_contribution_getElem (hS : S ∈ monosOfDegree m d) {Ss : List (List Nat)}
    (hSs : ∀ S' ∈ Ss, ∃ d' ≤ d, S' ∈ monosOfDegree m d') (nodup : Ss.Nodup) {us : List Bool} {t : Nat} {u : Bool}
    (ht : Ss[t]? = some S) (hu : us[t]? = some u) (b : Nat) : checkSum m S b (contribution Ss us) = u := by
  induction Ss generalizing us t with
  | nil => cases ht
  | cons S' Ss ih =>
    rw [List.forall_mem_cons] at hSs
    obtain ⟨notMem, nodup⟩ := List.nodup_cons.mp nodup
    cases us with
    | nil => cases hu
    | cons v us =>
      rw [checkSum_contribution_cons hS hSs.1]
      cases t with
      | zero =>
        cases ht
        cases hu
        simp [checkSum_contribution_of_notMem hS hSs.2 notMem]
      | succ t =>
        have ne : S' ≠ S := fun e => notMem (e ▸ List.mem_of_getElem? ht)
        simp [ne, ih hSs.2 nodup ht hu]

end

/-! ### The votes of a stage -/

theorem exists_of_xorSum {f : Nat → Bool} {count : Nat} (h : xorSum f count = true) : ∃ j < count, f j = true := by
  by_contra none
  push Not at none
  have zero : xorSum f count = xorSum (fun _ => false) count :=
    xorSum_congr fun j hj => Bool.eq_false_iff.mpr (none j hj)
  simp [zero, xorSum_false] at h

/-- Each error is in one check of a monomial (`inCheck_iff_checkOf`), so it spoils at most one of its check sums. -/
theorem countP_checkSum_le {m d : Nat} {S : List Nat} (hS : S ∈ monosOfDegree m d) (e : Nat → Bool) :
    (List.range (2 ^ (m - d))).countP (fun b => checkSum m S b e) ≤ (List.range (2 ^ m)).countP e := by
  rw [List.countP_eq_length_filter, List.countP_eq_length_filter, 
    ← List.length_map (as := (List.range (2 ^ m)).filter e) (checkOf m S)]
  refine (List.subperm_of_subset (List.nodup_range.filter _) fun b hb => ?_).length_le
  obtain ⟨lt, sum⟩ := List.mem_filter.mp hb
  obtain ⟨j, hj, spoiled⟩ := exists_of_xorSum sum
  obtain ⟨check, error⟩ := Bool.and_eq_true_iff.mp spoiled
  rw [List.mem_range, ← outside_length hS] at lt
  have found : b = checkOf m S j := (inCheck_iff_checkOf lt).mp check
  exact List.mem_map.mpr ⟨j, List.mem_filter.mpr ⟨List.mem_range.mpr hj, error⟩, found.symm⟩

theorem majority_eq_true_iff {ones total : Nat} : majority ones total = true ↔ total < 2 * ones := by
  unfold majority
  split
  · simp_all
  · split <;> simp_all

/-- A vote of which fewer than half are flipped decides for the value voted. -/
theorem majority_of_flipped {total : Nat} {p : Nat → Bool} (h : 2 * (List.range total).countP p < total) (u : Bool) :
    majority ((List.range total).countP fun b => xor u (p b)) total = u := by
  have votes := List.length_eq_countP_add_countP p (l := List.range total)
  rw [List.length_range] at votes
  cases u with
  | false => simpa [Bool.eq_false_iff, majority_eq_true_iff] using h.le
  | true =>
    simp only [Bool.true_xor, majority_eq_true_iff]
    simp only [Bool.not_eq_true, Bool.decide_eq_false] at votes
    omega

/-! ### The stages -/

/-- A received block: the sum of the rows `Ss` that `us` picks, with the errors `e`. -/
def received (m : Nat) (Ss : List (List Nat)) (us : List Bool) (e : Nat → Bool) : List Bool :=
  (List.range (codeLen m)).map fun j => xor (contribution Ss us j) (e j)

theorem received_getD {m j : Nat} (hj : j < codeLen m) (Ss : List (List Nat)) (us : List Bool) (e : Nat → Bool) :
    (received m Ss us e).getD j false = xor (contribution Ss us j) (e j) := by
  simp [received, hj]

section
variable {m d : Nat} {vs us : List Bool} {e : Nat → Bool}

/-- The residual at the start of stage `d`, the coefficients of its degree apart from those below. -/
theorem contribution_rowsBelow_succ (hv : vs.length = (rowsBelow m d).length) (j : Nat) :
    contribution (rowsBelow m (d + 1)) (vs ++ us) j =
      xor (contribution (rowsBelow m d) vs j) (contribution (monosOfDegree m d) us j) := by
  rw [rowsBelow_succ, contribution_append hv]

/-- A check of stage `d` on the residual is the coefficient of its monomial and the errors in it (R166). -/
theorem checkSum_received (hv : vs.length = (rowsBelow m d).length) {t b : Nat} {S : List Nat} {u : Bool}
    (ht : (monosOfDegree m d)[t]? = some S) (hu : us[t]? = some u) :
    checkSum m S b ((received m (rowsBelow m (d + 1)) (vs ++ us) e).getD · false) = xor u (checkSum m S b e) := by
  have hS : S ∈ monosOfDegree m d := List.mem_of_getElem? ht
  have notBelow : S ∉ rowsBelow m d := fun h => by
    obtain ⟨d', hd, h⟩ := mem_rowsBelow.mp h
    rw [← length_of_mem_monosOfDegree hS, length_of_mem_monosOfDegree h] at hd
    exact hd.false
  have below : checkSum m S b (contribution (rowsBelow m d) vs) = false :=
    checkSum_contribution_of_notMem hS
      (fun S' h => (mem_rowsBelow.mp h).imp fun d' h => ⟨h.1.le, h.2⟩) notBelow vs b
  have own : checkSum m S b (contribution (monosOfDegree m d) us) = u :=
    checkSum_contribution_getElem hS (fun S' h => ⟨d, le_rfl, h⟩) (monosOfDegree_nodup m d) ht hu b
  rw [checkSum_congr fun j hj => received_getD hj _ _ e, checkSum_xor, funext (contribution_rowsBelow_succ hv),
    checkSum_xor, below, own, Bool.false_xor]

/-- Stage `d` decides the coefficients of its degree, where the errors spoil fewer than half of the checks of a monomial
(R166, R169). -/
theorem stageDecisions_received (hv : vs.length = (rowsBelow m d).length) (hu : us.length = m.choose d)
    (he : 2 * (List.range (2 ^ m)).countP e < 2 ^ (m - d)) :
    stageDecisions m d (received m (rowsBelow m (d + 1)) (vs ++ us) e) = us := by
  refine List.ext_getElem (by rw [stageDecisions_length, hu]) fun t h1 h2 => ?_
  have ht : t < (monosOfDegree m d).length := by rw [monosOfDegree_length, ← hu]; exact h2
  have hS : (monosOfDegree m d)[t] ∈ monosOfDegree m d := List.getElem_mem ht
  have few := countP_checkSum_le hS e
  simp only [stageDecisions, List.getElem_map, onesOf, length_of_mem_monosOfDegree hS,
    checkSum_received hv (List.getElem?_eq_getElem ht) (List.getElem?_eq_getElem h2)]
  exact majority_of_flipped (by omega) us[t]

/-- The residual after stage `d` is the block received for the rows below (R170). -/
theorem subtractStage_received (hv : vs.length = (rowsBelow m d).length) :
    subtractStage m d us (received m (rowsBelow m (d + 1)) (vs ++ us) e) = received m (rowsBelow m d) vs e := by
  refine List.map_congr_left fun j hj => ?_
  rw [received_getD (List.mem_range.mp hj), contribution_rowsBelow_succ hv]
  generalize contribution (rowsBelow m d) vs j = x
  generalize contribution (monosOfDegree m d) us j = y
  cases x <;> cases y <;> simp

end

/-- The stages d - 1, …, 0 decide every coefficient (R168): the checks of a lower stage are more, so the errors spoil
fewer than half of them too. -/
theorem decodeStages_received (m d : Nat) (us : List Bool) (e : Nat → Bool) (hu : us.length = (rowsBelow m d).length)
    (he : ∀ d' < d, 2 * (List.range (2 ^ m)).countP e < 2 ^ (m - d')) :
    decodeStages m d (received m (rowsBelow m d) us e) = us := by
  induction d generalizing us with
  | zero => exact (List.length_eq_zero_iff.mp hu).symm
  | succ d ih =>
    rw [rowsBelow_succ, List.length_append, monosOfDegree_length] at hu
    obtain ⟨vs, ws, rfl, hv, hw⟩ : ∃ vs ws, us = vs ++ ws ∧ vs.length = (rowsBelow m d).length ∧
        ws.length = m.choose d :=
      ⟨_, _, (List.take_append_drop (rowsBelow m d).length us).symm, by simp; omega, by simp; omega⟩
    rw [decodeStages, stageDecisions_received hv hw (he d (by omega)), subtractStage_received hv,
      ih vs hv fun d' hd => he d' (by omega)]

/-- A block received with few enough errors decodes to the message of its codeword (R173). -/
theorem reedDecode_received {r m : Nat} {u : List Bool} {e : Nat → Bool} (hu : u.length = codeDim r m)
    (he : 2 * (List.range (2 ^ m)).countP e < 2 ^ (m - r)) : reedDecode (received m (monos r m) u e) r m = u := by
  refine decodeStages_received m (r + 1) u e (by rw [← monos_eq_rowsBelow, monos_length, hu]) fun d hd => ?_
  exact he.trans_le (Nat.pow_le_pow_right (by decide) (by omega))

/-- A codeword decodes to its message (R173, part 1). -/
theorem reedDecode_codeword (r m : Nat) (message : Nat → Bool) :
    reedDecode ((List.range (codeLen m)).map fun j =>
      xorSum (fun t => message t && genEntry r m t j) (codeDim r m)) r m = (List.range (codeDim r m)).map message := by
  have clean : 2 * (List.range (2 ^ m)).countP (fun _ => false) < 2 ^ (m - r) := by simp
  have codeword (j : Nat) : contribution (monos r m) ((List.range (codeDim r m)).map message) j =
      xorSum (fun t => message t && genEntry r m t j) (codeDim r m) :=
    (contribution_monos r m _ j).trans (xorSum_congr fun t ht => by simp [ht])
  have decoded := reedDecode_received (u := (List.range (codeDim r m)).map message) (by simp) clean
  simpa only [received, codeword, Bool.xor_false] using decoded

/-! ### DECODE and the round trip -/

/-- The run of an accepted DECODE in an idle machine: the block decoder's output for every block (R165, R166). -/
theorem decode_run {s : State} {src dst : Buf} (hs : s.Inv) (hb : s.busy = false) (hd : src ≠ dst)
    (built : s.built = true) {T : Nat} (hl : s.len.toNat = T * s.N.toNat) (hc : s.len.toNat ≤ 65536) :
    ∃ t, exec (.decode src dst) s = .next t ∧
      Completed T s.K.toNat (sequencerRun T t) ∧
      (∀ b < T, ∀ i < s.K.toNat, (sequencerRun T t).bufBit dst (b * s.K.toNat + i) =
        (reedDecode ((List.range s.N.toNat).map fun j => s.bufBit src (b * s.N.toNat + j))
          s.BR.toNat s.BM.toNat).getD i false) ∧
      OnlyStream dst (T * s.K.toNat) s (sequencerRun T t) ∧ StreamFrame s (sequencerRun T t) ∧
      NoDraws s (sequencerRun T t) := by
  obtain ⟨hK, hKN, -⟩ := (builtDimensionsAreBounded s hs).1 built
  have blocks : s.len.toNat / s.N.toNat = T := by rw [hl, Nat.mul_div_cancel _ (by omega)]
  have passed := decodeChecks_passed hd built (by rw [hl, Nat.mul_mod_left]) hc
  obtain ⟨-, count, input, output, -⟩ := decodeChecks_admissible hs passed
  rw [blocks] at passed count input output
  refine ⟨_, by rw [exec_eq, issueChecks, passed], ?_⟩
  refine issue_block_run hb (by simp [latch]) (by simp [latch]) rfl rfl rfl rfl rfl hd count input output ?_
  intro k _ u source _
  refine ⟨_, blockStep_decode k u rfl, fun i _ => ?_⟩
  have block : u.srcBlock _ k = (List.range s.N.toNat).map fun j => s.bufBit src (k * s.N.toNat + j) :=
    List.map_congr_left fun j hj => source j (List.mem_range.mp hj)
  rw [block]

/-- DECODE of a stream of codewords of the built code gives the stream of their messages (R165, R173, part 1). -/
theorem decode_codewords {s w : State} {src dst : Buf} (hw : w.Inv) (hb : w.busy = false) (hd : src ≠ dst)
    (code : SameCode s w) (built : s.built = true) {T : Nat} (hl : w.len.toNat = T * s.N.toNat)
    (hc : w.len.toNat ≤ 65536) {message : Nat → Nat → Bool}
    (codewords : ∀ b < T, ∀ j < s.N.toNat, w.bufBit src (b * s.N.toNat + j) =
      xorSum (fun i => message b i && genEntry s.BR.toNat s.BM.toNat i j) s.K.toNat) :
    ∃ t, exec (.decode src dst) w = .next t ∧ Completed T s.K.toNat (sequencerRun T t) ∧
      ∀ b < T, ∀ i < s.K.toNat, (sequencerRun T t).bufBit dst (b * s.K.toNat + i) = message b i := by
  obtain ⟨codeBuilt, codeR, codeM, codeK, codeN⟩ := code
  rw [← codeBuilt] at built
  rw [← codeN] at hl
  rw [← codeR, ← codeM, ← codeK, ← codeN] at codewords
  rw [← codeK]
  obtain ⟨t, ht, completed, output, -⟩ := decode_run hw hb hd built hl hc
  refine ⟨t, ht, completed, fun b hb i hi => ?_⟩
  obtain ⟨-, -, hK, hN⟩ := hw.isBuilt built
  have codeword : (List.range w.N.toNat).map (fun j => w.bufBit src (b * w.N.toNat + j)) =
      (List.range (codeLen w.BM.toNat)).map fun j =>
        xorSum (fun t => message b t && genEntry w.BR.toNat w.BM.toNat t j) (codeDim w.BR.toNat w.BM.toNat) := by
    rw [← hN, ← hK]
    exact List.map_congr_left fun j hj => codewords b hb j (List.mem_range.mp hj)
  rw [output b hb i hi, codeword, reedDecode_codeword, ← hK]
  simp [hi]

theorem sequencerRun_keeps_inv {s : State} (h : s.Inv) (n : Nat) : (sequencerRun n s).Inv := by
  induction n with
  | zero => exact h
  | succ n ih => rw [sequencerRun_succ]; exact sequencerStep_keeps_inv ih

theorem QuietAccess.setBufBits (s : State) (b : Buf) (off len : Nat) (f : Nat → Bool) :
    QuietAccess s (s.setBufBits b off len f) :=
  ⟨⟨rfl, rfl, rfl, rfl, rfl⟩, ⟨rfl, rfl, rfl⟩, rfl, rfl, rfl, id, .inl⟩

theorem State.Inv.setBufBits {s : State} (h : s.Inv) (b : Buf) {off len : Nat} (f : Nat → Bool)
    (hl : off + len ≤ 65536) : (s.setBufBits b off len f).Inv :=
  (QuietAccess.setBufBits s b off len f).keeps_inv h (State.wf_setBufBits f h.memory hl)

/-- What a host that overwrites the source stream after a run, or leaves it, keeps: all but the source buffer (R64). -/
structure SourceRewritten (dst : Buf) (u w : State) : Prop where
  inv : w.Inv
  busy : w.busy = u.busy
  code : SameCode u w
  output : ∀ i < 65536, w.bufBit dst i = u.bufBit dst i

theorem sourceRewritten {u w : State} {src dst : Buf} {len : Nat} (hu : u.Inv) (hd : src ≠ dst) (hl : len ≤ 65536)
    (hw : w = u ∨ ∃ g, w = u.setBufBits src 0 len g) : SourceRewritten dst u w := by
  obtain rfl | ⟨g, rfl⟩ := hw
  · exact ⟨hu, rfl, ⟨rfl, rfl, rfl, rfl, rfl⟩, fun _ _ => rfl⟩
  · exact ⟨hu.setBufBits src g (by omega), rfl, (QuietAccess.setBufBits u src 0 len g).code,
      fun i hi => State.bufBit_setBufBits_other u 0 len g hd.symm (by omega) hi⟩

/-- Settles O32: ENCODE writes the codewords of the source blocks (`encodeRunsToCompletion`), overwriting the source
keeps them (`sourceRewritten`), and DECODE gives their messages (`decode_codewords`). -/
theorem encodeThenDecodeRestoresTheMessage : Obligations.EncodeThenDecodeRestoresTheMessage := by
  intro s src dst hs hb hd built hg hg' gram hl ho hc
  obtain ⟨t, ht, completed, output, -, frame, -⟩ := encodeRunsToCompletion s src dst hs hb hd built hg hg' hl hc ho
  refine ⟨t, ht, completed, fun w hw => ?_⟩
  have hu := sequencerRun_keeps_inv (exec_keeps_inv hs ht) (s.len.toNat / s.K.toNat)
  obtain ⟨inv, busy, code, kept⟩ := sourceRewritten hu hd hc hw
  have blocks := Nat.div_mul_cancel (Nat.dvd_of_mod_eq_zero hl)
  generalize s.len.toNat / s.K.toNat = T at *
  have sameCode : SameCode s { w with len := BitVec.ofNat 32 (T * s.N.toNat) } :=
    (frame.code.trans code).trans (QuietAccess.storeReg w .len _).code
  have length : (BitVec.ofNat 32 (T * s.N.toNat)).toNat = T * s.N.toNat := by
    rw [BitVec.toNat_ofNat]
    omega
  have codewords : ∀ b < T, ∀ j < s.N.toNat, w.bufBit dst (b * s.N.toNat + j) =
      xorSum (fun i => s.bufBit src (b * s.K.toNat + i) && genEntry s.BR.toNat s.BM.toNat i j) s.K.toNat := by
    intro b hb j hj
    have inside : b * s.N.toNat + j < T * s.N.toNat := block_apart hb hj
    rw [kept _ (by omega), output b hb j hj]
    exact xorSum_congr fun i hi => by rw [gram i hi j hj]
  obtain ⟨v, hv, completed', restored⟩ :=
    decode_codewords (s := s) (w := { w with len := BitVec.ofNat 32 (T * s.N.toNat) }) (inv.storeReg .len _)
      (busy.trans completed.idle) hd.symm sameCode built length (length.trans_le ho) codewords
  refine ⟨v, hv, completed', fun i hi => ?_⟩
  have hK : 0 < s.K.toNat := ((builtDimensionsAreBounded s hs).1 built).1
  rw [← Nat.div_add_mod' i s.K.toNat]
  exact restored _ ((Nat.div_lt_iff_lt_mul hK).mpr (by rwa [blocks])) _ (Nat.mod_lt _ hK)

end Sys2Proof.Machine

/-! PROOF. TRANSMIT from its issue to its completion (O17), and its two boundary cases (O31). The t-th block step takes
the t-th draw of the port (`Sent.nextDraw_eq_drawAt`), and what a run has taken and counted after k blocks is `Sent`. -/

namespace Sys2Proof.Machine

/-! ### The draws and the flips of a run -/

theorem State.nextDraw_eq (s : State) : s.nextDraw = s.env.port.head?.getD (Config.freeDraw s.env.drawn) := by
  unfold State.nextDraw
  cases s.env.port <;> rfl

theorem State.drawAt_eq (s : State) (n : Nat) :
    s.drawAt n = s.env.port[n]?.getD (Config.freeDraw (s.env.drawn + n)) := by
  unfold State.drawAt
  cases s.env.port[n]? <;> rfl

/-- Does a TRANSMIT issued in `s` flip stream bit `t` (R152)? -/
def State.flipAt (s : State) (t : Nat) : Bool := flipped (s.drawAt t) s.pe

/-- What a TRANSMIT issued in `s` has counted and taken after `k` blocks, in the state `u` (R151, R152). -/
structure Sent (s : State) (k : Nat) (u : State) : Prop where
  flips : u.flips = BitVec.ofNat 32 ((List.range k).countP s.flipAt)
  drawn : u.env.drawn = s.env.drawn + k
  port : u.env.port = s.env.port.drop k

theorem Sent.nextDraw_eq_drawAt {s u : State} {k : Nat} (h : Sent s k u) : u.nextDraw = s.drawAt k := by
  rw [State.nextDraw_eq, State.drawAt_eq, h.port, h.drawn, List.head?_drop]

/-! ### The block step and the run -/

section
variable {c : Latched} {s u : State} {k : Nat}

theorem bufBit_blockStep_transmit (hop : c.op = .transmit) (k : Nat) (u : State) {j : Nat} (hj : j < c.OB) :
    (blockStep c k u).bufBit c.dst (k * c.OB + j) = xor (u.srcBit c k j) (flipped u.nextDraw c.pe) := by
  rw [blockStep_transmit k u hop]
  exact bufBit_putBlock u.afterDraw c k (fun i => xor (u.srcBit c k i) (flipped u.nextDraw c.pe)) hj

/-- One more block takes one more draw and counts its flip (R151, R152). -/
theorem Sent.blockStep (h : Sent s k u) (hop : c.op = .transmit) (hpe : c.pe = s.pe) :
    Sent s (k + 1) (blockStep c k u) := by
  have flip : flipped u.nextDraw c.pe = s.flipAt k := by rw [h.nextDraw_eq_drawAt, hpe, State.flipAt]
  rw [blockStep_transmit k u hop, flip]
  refine ⟨?_, ?_, ?_⟩
  · simp only [h.flips, List.range_succ, List.countP_append, List.countP_singleton]
    cases s.flipAt k
    · rfl
    · exact (BitVec.ofNat_add _ _).symm
  · exact congrArg (· + 1) h.drawn
  · exact (congrArg List.tail h.port).trans List.tail_drop

/-- FLIPS does not wrap: it counts at most one flip for each of the blocks (R152). -/
theorem Sent.flips_toNat (h : Sent s k u) (hk : k ≤ 65536) : u.flips.toNat = (List.range k).countP s.flipAt := by
  have bound : (List.range k).countP s.flipAt ≤ k := List.countP_le_length.trans_eq List.length_range
  rw [h.flips, BitVec.toNat_ofNat]
  exact Nat.mod_eq_of_lt (by omega)

/-- The run of an accepted TRANSMIT, whose blocks are of one bit (R97, R150). -/
theorem issue_transmit_run (hb : s.busy = false) (hc : c.Admissible) (hop : c.op = .transmit) (hpe : c.pe = s.pe) :
    Completed c.T 1 (sequencerRun c.T (s.issue (.ok c))) ∧
    (∀ b < c.T, (sequencerRun c.T (s.issue (.ok c))).bufBit c.dst b = xor (s.bufBit c.src b) (s.flipAt b)) ∧
    OnlyStream c.dst c.T s (sequencerRun c.T (s.issue (.ok c))) ∧
    StreamFrame s (sequencerRun c.T (s.issue (.ok c))) ∧ Sent s c.T (sequencerRun c.T (s.issue (.ok c))) := by
  have notBuild : c.op ≠ .build := by simp [hop]
  obtain ⟨hI, hO, -⟩ : c.IB = 1 ∧ c.OB = 1 ∧ c.pe.toNat ≤ 65536 := by simpa only [Latched.Fits, hop] using hc.fits
  have blocks := issue_stream_run (out := fun b _ => xor (s.bufBit c.src b) (s.flipAt b)) (extra := Sent s)
    hb notBuild hc.count hc.output ?_ ?_
  · simpa [hO] using blocks
  · intro v henv hflips
    rw [if_pos hop] at hflips
    exact ⟨hflips, congrArg Env.drawn henv, congrArg Env.port henv⟩
  · intro k hk u frame sent _
    refine ⟨fun j hj => ?_, fun v hflips henv => ?_⟩
    · obtain rfl : j = 0 := by omega
      have source := srcBit_of_onlyStream (hc.buffers notBuild).1 hk hc.input hc.output frame (i := 0) (by omega)
      rw [hI, Nat.mul_one, Nat.add_zero] at source
      rw [bufBit_blockStep_transmit hop k u hj, source, sent.nextDraw_eq_drawAt, hpe, State.flipAt]
    · obtain ⟨flips, drawn, port⟩ := sent.blockStep hop hpe
      exact ⟨hflips.trans flips, by rw [henv, drawn], by rw [henv, port]⟩

end

/-! ### TRANSMIT -/

/-- Settles O17: the checks pass (`transmitChecks_passed`), and the run sends the stream bit by bit
(`issue_transmit_run`), so that `Sent` holds of LEN blocks at its end. -/
theorem transmitRunsToCompletion : Obligations.TransmitRunsToCompletion := by
  intro s src dst hb hd hp hl
  have passed := transmitChecks_passed hd hp hl
  obtain ⟨completed, output, only, frame, sent⟩ :=
    issue_transmit_run hb (transmitChecks_admissible passed) rfl rfl
  exact ⟨_, by rw [exec_eq, issueChecks, passed], completed, output, sent.flips_toNat hl, sent.drawn, sent.port, only,
    frame⟩

/-- TRANSMIT where every draw gives the same answer `f`: each bit is flipped, or none is, and FLIPS counts them. -/
theorem transmit_uniform {s : State} {src dst : Buf} {f : Bool} (hb : s.busy = false) (hd : src ≠ dst)
    (hp : s.pe.toNat ≤ 65536) (hl : s.len.toNat ≤ 65536) (hf : ∀ u : BitVec 16, flipped u s.pe = f) :
    ∃ t, exec (.transmit src dst) s = .next t ∧ Completed s.len.toNat 1 (sequencerRun s.len.toNat t) ∧
      (∀ i < s.len.toNat, (sequencerRun s.len.toNat t).bufBit dst i = xor (s.bufBit src i) f) ∧
      (sequencerRun s.len.toNat t).flips = if f then s.len else 0#32 := by
  obtain ⟨t, ht, completed, output, flips, -⟩ := transmitRunsToCompletion s src dst hb hd hp hl
  have flip (b : Nat) : decide ((s.drawAt b).toNat < s.pe.toNat) = f := hf (s.drawAt b)
  simp only [flip] at output flips
  refine ⟨t, ht, completed, output, BitVec.eq_of_toNat_eq ?_⟩
  rw [flips]
  cases f <;> simp

/-- Settles O31: no draw is below 0, and every draw is below 65536 (`transmit_uniform`). -/
theorem transmitAtTheBoundaries : Obligations.TransmitAtTheBoundaries := by
  refine fun s src dst hb hd hl => ⟨fun hp => ?_, fun hp => ?_⟩
  · have never (u : BitVec 16) : flipped u s.pe = false := by simp [flipped, hp]
    simpa using transmit_uniform hb hd (by simp [hp]) hl never
  · have always (u : BitVec 16) : flipped u s.pe = true := by
      rw [hp]
      exact decide_eq_true u.isLt
    simpa using transmit_uniform hb hd (by simp [hp]) hl always

end Sys2Proof.Machine

/-! PROOF. The decoder and the syndrome unit: the votes of DECODE's first stage (O30, O29), both parts of the decoding
rule (O27, O28), and DECODE and CHECKS from their issue to their completion (O18, O21). Behind O29 and O21 is one fact,
that each monomial has its own run of check sums in the syndrome (`syndrome_run`). -/

namespace Sys2Proof.Machine

/-! ### The syndrome -/

/-- In a concatenation of pieces of one length, the run at a piece's place is the piece. -/
theorem take_drop_flatMap {α β : Type} {f : α → List β} {w : Nat} {xs : List α} (hw : ∀ x ∈ xs, (f x).length = w)
    {p : Nat} {x : α} (hx : xs[p]? = some x) : ((xs.flatMap f).drop (p * w)).take w = f x := by
  induction xs generalizing p with
  | nil => cases hx
  | cons y ys ih =>
    obtain ⟨hy, hys⟩ := List.forall_mem_cons.mp hw
    rw [List.flatMap_cons]
    cases p with
    | zero =>
      cases hx
      simp [← hy]
    | succ p =>
      have skip : (p + 1) * w = (f y).length + p * w := by rw [hy, Nat.succ_mul, Nat.add_comm]
      rw [skip, ← List.drop_drop, List.drop_left]
      exact ih hys hx

section
variable {r m p : Nat} {S : List Nat}

/-- The p-th run of 2^(m - r) syndrome bits holds the check sums of the p-th monomial of degree `r` (R175). -/
theorem syndrome_run (hS : (monosOfDegree m r)[p]? = some S) (y : Nat → Bool) :
    ((syndrome r m y).drop (p * 2 ^ (m - r))).take (2 ^ (m - r)) =
      (List.range (2 ^ (m - r))).map fun b => checkSum m S b y :=
  take_drop_flatMap (by simp) hS

theorem syndrome_getElem? {b : Nat} (hS : (monosOfDegree m r)[p]? = some S) (hb : b < 2 ^ (m - r)) (y : Nat → Bool) :
    (syndrome r m y)[p * 2 ^ (m - r) + b]? = some (checkSum m S b y) := by
  have entry := congrArg (·[b]?) (syndrome_run hS y)
  simpa [List.getElem?_take_of_lt, hb] using entry

/-- The syndrome reads the positions of the block and no others (R115). -/
theorem syndrome_congr {y z : Nat → Bool} (h : ∀ j < codeLen m, y j = z j) : syndrome r m y = syndrome r m z := by
  simp only [syndrome, checkSum_congr h]

end

/-! ### The votes -/

/-- Settles O30: the two branches of the vote that do not answer 1 agree (`majority_eq_true_iff`). -/
theorem majorityBreaksTiesToZero : Obligations.MajorityBreaksTiesToZero := fun _ _ => majority_eq_true_iff

/-- Settles O29: the votes on a monomial are its check sums, which are its run of the syndrome (`syndrome_run`). -/
theorem firstStageVotesOnTheChecks : Obligations.FirstStageVotesOnTheChecks := by
  intro r m y _
  refine List.ext_getElem (by simp) fun p h _ => ?_
  have hp : p < (monosOfDegree m r).length := by simpa using h
  have degree := length_of_mem_monosOfDegree (List.getElem_mem hp)
  have run := syndrome_run (List.getElem?_eq_getElem hp) (y.getD · false)
  simp only [stageDecisions, List.getElem_map, List.getElem_range, onesOf, degree, run, List.countP_map,
    Function.id_comp]

/-! ### The decoding rule -/

/-- A codeword with errors in fewer than half as many positions as a monomial of degree `r` has checks decodes to its
message (R173). -/
theorem reedDecode_codeword_xor {r m : Nat} {u : List Bool} {e : Nat → Bool} (hu : u.length = codeDim r m)
    (he : 2 * (List.range (2 ^ m)).countP e < 2 ^ (m - r)) :
    reedDecode ((List.range (2 ^ m)).map fun j =>
      xor (xorSum (fun t => u.getD t false && genEntry r m t j) (codeDim r m)) (e j)) r m = u := by
  simpa only [received, contribution_monos, codeLen] using reedDecode_received hu he

/-- Settles O27: a codeword is received with no error (`reedDecode_codeword_xor`). -/
theorem decoderInvertsTheEncoder : Obligations.DecoderInvertsTheEncoder := by
  intro r m u _ hu
  have clean : 2 * (List.range (2 ^ m)).countP (fun _ => false) < 2 ^ (m - r) := by simp
  simpa only [Bool.xor_false] using reedDecode_codeword_xor hu clean

/-- Settles O28: twice the radius is below the number 2^(m - r) of checks (`reedDecode_codeword_xor`). -/
theorem decoderCorrectsErrors : Obligations.DecoderCorrectsErrors := by
  intro r m u e hr hu he
  have checks : 2 ^ (m - r) = 2 * 2 ^ (m - r - 1) := (mul_pow_sub_one (by omega) 2).symm
  have positive : 0 < 2 ^ (m - r - 1) := Nat.two_pow_pos _
  exact reedDecode_codeword_xor hu (by omega)

/-! ### DECODE and CHECKS -/

/-- Settles O18: the run writes the first K bits of each decoded block (`decode_run`), which are all of it
(`reedDecode_length`). -/
theorem decodeRunsToCompletion : Obligations.DecodeRunsToCompletion := by
  intro s src dst hs hb hd built hl hc
  obtain ⟨t, ht, completed, output, rest⟩ :=
    decode_run hs hb hd built (Nat.div_mul_cancel (Nat.dvd_of_mod_eq_zero hl)).symm hc
  refine ⟨t, ht, completed, fun b hb i hi => ?_, rest⟩
  obtain ⟨-, -, hK, -⟩ := hs.isBuilt built
  have inside (y : List Bool) : i < (reedDecode y s.BR.toNat s.BM.toNat).length := by rwa [reedDecode_length, ← hK]
  rw [output b hb i hi, List.getD_eq_getElem _ _ (inside _)]
  exact List.getElem?_eq_getElem (inside _)

/-- Settles O21: the checks pass (`checksChecks_passed`), the run writes the syndrome of every block
(`issue_block_run`), and its bit p·2^(m - r) + b is a check sum of the p-th monomial (`syndrome_getElem?`). -/
theorem checksRunsToCompletion : Obligations.ChecksRunsToCompletion := by
  intro s src dst hs hb hd built hl hc ho
  have passed := checksChecks_passed hd built hl hc ho
  obtain ⟨-, count, input, -, -⟩ := checksChecks_admissible hs passed
  obtain ⟨-, -, -, hN⟩ := hs.isBuilt built
  obtain ⟨completed, output, rest⟩ := issue_block_run
    (out := fun q i => (syndrome s.BR.toNat s.BM.toNat fun j => s.bufBit src (q * s.N.toNat + j)).getD i false)
    hb (by simp [latch]) (by simp [latch]) rfl rfl rfl rfl rfl hd count input ho
    fun k _ u source _ => ⟨_, blockStep_checks k u rfl,
      fun i _ => congrArg (·.getD i false) (syndrome_congr fun j hj => source j (hj.trans_eq hN.symm))⟩
  refine ⟨_, by rw [exec_eq, issueChecks, passed], completed, fun q hq p S hS b hb => ?_, rest⟩
  obtain ⟨hp, -⟩ := List.getElem?_eq_some_iff.mp hS
  rw [monosOfDegree_length] at hp
  have written := output q hq _ (block_apart hp hb)
  rwa [← Nat.add_assoc, List.getD_eq_getElem?_getD, syndrome_getElem? hS hb] at written

end Sys2Proof.Machine

/-! PROOF. The block interleaver: INTERLEAVE and DEINTERLEAVE from their issue to their completion (O19, O20), and that
they undo each other (O33). Each takes output bit q of a frame from the input bit at an image of q (`PermutesFrames`),
DEINTERLEAVE under π_{R,C} and INTERLEAVE under π_{C,R}, and the two images are inverse (`frameMap_frameMap`; R191). -/

namespace Sys2Proof.Machine

/-! ### The frame map -/

section
variable {rows cols q : Nat}

/-- π sends row `r`, column `c` of the frame to row `c`, column `r` of the transposed frame (R191). -/
theorem frameMap_entry {r c : Nat} (hc : c < cols) : frameMap rows cols (r * cols + c) = c * rows + r := by
  have column : (r * cols + c) % cols = c := by rw [Nat.mul_add_mod_self_right, Nat.mod_eq_of_lt hc]
  have row : (r * cols + c) / cols = r := by
    rw [Nat.add_comm, Nat.add_mul_div_right _ _ (by omega), Nat.div_eq_of_lt hc, Nat.zero_add]
  rw [frameMap, column, row]

/-- The row and the column of a frame's position lie in the frame, so its image does (R191). -/
theorem frameMap_lt (h : q < rows * cols) : frameMap rows cols q < cols * rows :=
  block_apart (Nat.mod_lt _ (Nat.pos_of_lt_mul_left h)) (Nat.div_lt_of_lt_mul (by rwa [Nat.mul_comm]))

/-- π_{C,R} inverts π_{R,C} (R191). -/
theorem frameMap_frameMap (h : q < rows * cols) : frameMap cols rows (frameMap rows cols q) = q := by
  have row : q / cols < rows := Nat.div_lt_of_lt_mul (by rwa [Nat.mul_comm])
  calc frameMap cols rows (q % cols * rows + q / cols)
      _ = q / cols * cols + q % cols := frameMap_entry row
      _ = q := Nat.div_add_mod' q cols

end

/-! ### The run of an interleaver command -/

/-- The number of bits of a frame, R·C (R190). -/
def State.frameBits (s : State) : Nat := s.irows.toNat * s.icols.toNat

/-- The number of frames in the stream, T (R97, R190). -/
def State.frameCount (s : State) : Nat := s.len.toNat / s.frameBits

/-- An idle machine in which an interleaver command has no error but its buffers' (R190, R205). -/
structure WholeFrames (s : State) : Prop where
  idle : s.busy = false
  rows : s.irows ≠ 0#16
  cols : s.icols ≠ 0#16
  whole : s.len.toNat % s.frameBits = 0
  fits : s.len.toNat ≤ 65536

theorem WholeFrames.stream {s : State} (h : WholeFrames s) : s.frameCount * s.frameBits = s.len.toNat :=
  Nat.div_mul_cancel (Nat.dvd_of_mod_eq_zero h.whole)

theorem WholeFrames.frameBits_pos {s : State} (h : WholeFrames s) : 0 < s.frameBits :=
  Nat.mul_pos (Nat.pos_of_ne_zero (BitVec.toNat_ne_iff_ne.mpr h.rows))
    (Nat.pos_of_ne_zero (BitVec.toNat_ne_iff_ne.mpr h.cols))

/-- What an interleaver command issued in `s` latches (R44, R97, R190). -/
def frameCommand (op : Opcode) (src dst : Buf) (s : State) : Latched :=
  { latch op src dst s.frameCount s.frameBits s.frameBits with irows := s.irows, icols := s.icols }

theorem WholeFrames.checks {s : State} (h : WholeFrames s) {src dst : Buf} (hd : src ≠ dst) (op : Opcode) :
    frameChecks op src dst s = .ok (frameCommand op src dst s) :=
  frameChecks_passed hd (BitVec.toNat_ne_iff_ne.mpr h.rows) (BitVec.toNat_ne_iff_ne.mpr h.cols) h.whole h.fits

/-- The run from `s` to `u` of an interleaver command that takes output bit `q` of every frame from the frame's input
bit `source q`. -/
structure FramesPermuted (source : Nat → Nat) (src dst : Buf) (s u : State) : Prop where
  completed : Completed s.frameCount s.frameBits u
  output : ∀ b < s.frameCount, ∀ q < s.frameBits,
    u.bufBit dst (b * s.frameBits + q) = s.bufBit src (b * s.frameBits + source q)
  only : OnlyStream dst s.len.toNat s u
  frame : StreamFrame s u
  draws : NoDraws s u

/-- The command, with ILV = (R, C), is accepted and takes output bit `q` of every frame from input bit
`source R C q`. -/
def PermutesFrames (command : Buf → Buf → Instr) (source : Nat → Nat → Nat → Nat) : Prop :=
  ∀ (s : State) (src dst : Buf), WholeFrames s → src ≠ dst → ∃ t, exec (command src dst) s = .next t ∧
    FramesPermuted (source s.irows.toNat s.icols.toNat) src dst s (sequencerRun s.frameCount t)

/-- A command with the checks of an interleaver command permutes the frames as its block step does. -/
theorem permutesFrames_of_blockStep {command : Buf → Buf → Instr} {op : Opcode} {source : Nat → Nat → Nat → Nat}
    (hop : op = .interleave ∨ op = .deinterleave)
    (hchecks : ∀ src dst s, issueChecks (command src dst) s = frameChecks op src dst s)
    (hsource : ∀ rows cols q, q < rows * cols → source rows cols q < rows * cols)
    (hblock : ∀ (c : Latched) (k : Nat) (u : State), c.op = op →
      blockStep c k u = u.putBlock c k fun q => u.srcBit c k (source c.irows.toNat c.icols.toNat q)) :
    PermutesFrames command source := by
  intro s src dst ready hd
  have count : s.frameCount ≤ 65536 := (Nat.div_le_self _ _).trans ready.fits
  have bounds : s.frameCount * s.frameBits ≤ 65536 := ready.stream.trans_le ready.fits
  obtain ⟨notBuild, notTransmit⟩ : op ≠ .build ∧ op ≠ .transmit := by obtain rfl | rfl := hop <;> decide
  obtain ⟨completed, permuted, only, frame, draws⟩ := issue_block_run (c := frameCommand op src dst s)
    (dst := dst) (T := s.frameCount) (OB := s.frameBits)
    (out := fun b q => s.bufBit src (b * s.frameBits + source s.irows.toNat s.icols.toNat q))
    ready.idle notBuild notTransmit rfl rfl rfl rfl rfl hd count bounds bounds
    fun k _ u block _ => ⟨_, hblock _ k u rfl, fun q hq => block _ (hsource _ _ q hq)⟩
  rw [ready.stream] at only
  exact ⟨_, by rw [exec_eq, hchecks, ready.checks hd], completed, permuted, only, frame, draws⟩

/-- INTERLEAVE takes its output bits from their images under π_{C,R}, the inverse of π_{R,C} (R190, R191). -/
theorem interleave_permutesFrames : PermutesFrames .interleave fun rows cols => frameMap cols rows :=
  permutesFrames_of_blockStep (.inl rfl) (fun _ _ _ => rfl)
    (fun _ _ _ hq => frameMap_lt (by rwa [Nat.mul_comm])) fun _ k u => blockStep_interleave k u

/-- DEINTERLEAVE takes its output bits from their images under π_{R,C} (R192). -/
theorem deinterleave_permutesFrames : PermutesFrames .deinterleave frameMap :=
  permutesFrames_of_blockStep (.inr rfl) (fun _ _ _ => rfl)
    (fun _ _ _ hq => by rw [Nat.mul_comm]; exact frameMap_lt hq) fun _ k u => blockStep_deinterleave k u

/-! ### INTERLEAVE and DEINTERLEAVE -/

/-- Settles O19: output bit c·R + r of a frame is its input bit π_{C,R}(c·R + r) (`interleave_permutesFrames`), which is
r·C + c (`frameMap_entry`). -/
theorem interleaveRunsToCompletion : Obligations.InterleaveRunsToCompletion := by
  intro s src dst idle hd rows cols whole fits
  obtain ⟨t, ht, completed, output, only, frame, draws⟩ :=
    interleave_permutesFrames s src dst ⟨idle, rows, cols, whole, fits⟩ hd
  refine ⟨t, ht, completed, fun b hb r hr c hc => ?_, only, frame, draws⟩
  have inside : c * s.irows.toNat + r < s.frameBits := (block_apart hc hr).trans_eq (Nat.mul_comm _ _)
  have taken := output b hb _ inside
  simp only [frameMap_entry hr, ← Nat.add_assoc] at taken
  exact taken

/-- Settles O20: output bit r·C + c of a frame is its input bit π_{R,C}(r·C + c) (`deinterleave_permutesFrames`), which
is c·R + r (`frameMap_entry`). -/
theorem deinterleaveRunsToCompletion : Obligations.DeinterleaveRunsToCompletion := by
  intro s src dst idle hd rows cols whole fits
  obtain ⟨t, ht, completed, output, only, frame, draws⟩ :=
    deinterleave_permutesFrames s src dst ⟨idle, rows, cols, whole, fits⟩ hd
  refine ⟨t, ht, completed, fun b hb r hr c hc => ?_, only, frame, draws⟩
  have taken := output b hb _ (block_apart hr hc)
  simp only [frameMap_entry hc, ← Nat.add_assoc] at taken
  exact taken

/-! ### The round trip -/

/-- Overwriting the source stream after a run, or leaving it, keeps all but the source buffer (R64). -/
theorem overwrittenSource_keeps {u w : State} {src dst : Buf} {len : Nat} (hd : src ≠ dst) (hl : len ≤ 65536)
    (hw : w = u ∨ ∃ g, w = u.setBufBits src 0 len g) :
    w.busy = u.busy ∧ SameHostRegs u w ∧ ∀ i < 65536, w.bufBit dst i = u.bufBit dst i := by
  obtain rfl | ⟨g, rfl⟩ := hw
  · exact ⟨rfl, ⟨rfl, rfl, rfl, rfl, rfl, rfl, rfl⟩, fun _ _ => rfl⟩
  · exact ⟨rfl, ⟨rfl, rfl, rfl, rfl, rfl, rfl, rfl⟩,
      fun i hi => State.bufBit_setBufBits_other u 0 len g hd.symm (by omega) hi⟩

theorem SameHostRegs.trans {s t u : State} (h : SameHostRegs s t) (h' : SameHostRegs t u) : SameHostRegs s u :=
  ⟨h'.cfgM.trans h.cfgM, h'.cfgR.trans h.cfgR, h'.pe.trans h.pe, h'.irows.trans h.irows, h'.icols.trans h.icols,
    h'.len.trans h.len, h'.ie.trans h.ie⟩

theorem SameHostRegs.frameBits {s t : State} (h : SameHostRegs s t) : t.frameBits = s.frameBits := by
  rw [State.frameBits, h.irows, h.icols, State.frameBits]

theorem SameHostRegs.frameCount {s t : State} (h : SameHostRegs s t) : t.frameCount = s.frameCount := by
  rw [State.frameCount, h.len, h.frameBits, State.frameCount]

theorem WholeFrames.of_sameHostRegs {s t : State} (h : WholeFrames s) (regs : SameHostRegs s t)
    (idle : t.busy = false) : WholeFrames t :=
  ⟨idle, regs.irows ▸ h.rows, regs.icols ▸ h.cols, by rw [regs.len, regs.frameBits, h.whole], regs.len ▸ h.fits⟩

/-- The frames of `s`, permuted from `s` to `u` and permuted back from `w` to `x`, are again as they were. -/
theorem FramesPermuted.undo {f g : Nat → Nat} {s u w x : State} {src dst : Buf} (ready : WholeFrames s)
    (run : FramesPermuted f src dst s u) (back : FramesPermuted g dst src w x) (regs : SameHostRegs s w)
    (kept : ∀ i < 65536, w.bufBit dst i = u.bufBit dst i)
    (hg : ∀ q < s.frameBits, g q < s.frameBits ∧ f (g q) = q) :
    ∀ i < s.len.toNat, x.bufBit src i = s.bufBit src i := by
  intro i hi
  have output := back.output
  rw [regs.frameBits, regs.frameCount] at output
  have stream := ready.stream
  have block : i / s.frameBits < s.frameCount := (Nat.div_lt_iff_lt_mul ready.frameBits_pos).mpr (by omega)
  have place : i % s.frameBits < s.frameBits := Nat.mod_lt _ ready.frameBits_pos
  obtain ⟨place', inverse⟩ := hg _ place
  have inside : i / s.frameBits * s.frameBits + g (i % s.frameBits) < s.frameCount * s.frameBits :=
    block_apart block place'
  have fits := ready.fits
  rw [← Nat.div_add_mod' i s.frameBits, output _ block _ place, kept _ (by omega), run.output _ block _ place', inverse]

/-- A command that permutes the frames, and then one that permutes them back, restore the source stream, whatever the
source buffer has been overwritten with in between (R193, part 1). -/
theorem PermutesFrames.undo {first second : Buf → Buf → Instr} {f g : Nat → Nat → Nat → Nat}
    (hf : PermutesFrames first f) (hg : PermutesFrames second g)
    (inverse : ∀ rows cols, ∀ q < rows * cols, g rows cols q < rows * cols ∧ f rows cols (g rows cols q) = q)
    {s : State} {src dst : Buf} (ready : WholeFrames s) (hd : src ≠ dst) :
    ∃ t, exec (first src dst) s = .next t ∧
      Completed s.frameCount s.frameBits (sequencerRun s.frameCount t) ∧
      ∀ w : State, (w = sequencerRun s.frameCount t ∨
          ∃ bits, w = (sequencerRun s.frameCount t).setBufBits src 0 s.len.toNat bits) →
        ∃ v, exec (second dst src) w = .next v ∧
          Completed s.frameCount s.frameBits (sequencerRun s.frameCount v) ∧
          ∀ i < s.len.toNat, (sequencerRun s.frameCount v).bufBit src i = s.bufBit src i := by
  obtain ⟨t, ht, run⟩ := hf s src dst ready hd
  refine ⟨t, ht, run.completed, fun w hw => ?_⟩
  obtain ⟨idle, rewritten, kept⟩ := overwrittenSource_keeps hd ready.fits hw
  have regs : SameHostRegs s w := run.frame.hostRegs.trans rewritten
  obtain ⟨v, hv, back⟩ := hg w dst src (ready.of_sameHostRegs regs (idle.trans run.completed.idle)) hd.symm
  rw [regs.irows, regs.icols, regs.frameCount] at back
  have completed := back.completed
  rw [regs.frameCount, regs.frameBits] at completed
  exact ⟨v, hv, completed, run.undo ready back regs kept (inverse _ _)⟩

/-- Settles O33: both commands permute the frames, and their maps π_{R,C} and π_{C,R} are inverse
(`frameMap_frameMap`), so the second command undoes the first (`PermutesFrames.undo`). -/
theorem interleaveAndDeinterleaveUndoEachOther : Obligations.InterleaveAndDeinterleaveUndoEachOther := by
  intro s src dst idle hd rows cols whole fits F T first second order
  have ready : WholeFrames s := ⟨idle, rows, cols, whole, fits⟩
  obtain ⟨rfl, rfl⟩ | ⟨rfl, rfl⟩ := order
  · exact interleave_permutesFrames.undo deinterleave_permutesFrames
      (fun _ _ _ hq => ⟨(frameMap_lt hq).trans_eq (Nat.mul_comm _ _), frameMap_frameMap hq⟩) ready hd
  · exact deinterleave_permutesFrames.undo interleave_permutesFrames
      (fun _ _ _ hq => ⟨frameMap_lt (hq.trans_eq (Nat.mul_comm _ _)),
        frameMap_frameMap (hq.trans_eq (Nat.mul_comm _ _))⟩) ready hd

end Sys2Proof.Machine

/-! PROOF. How a command ends (R200 to R208): by the first error of its issue (O9), by an abort request (O11), or by the
last of its block steps (O12, O13). The issue checks and the error tables are compared test by test
(`issueChecks_eq_error_iff`); a block step that is not the last one leaves one less to take (`sequencerRun_ends`). -/

namespace Sys2Proof.Machine

/-! ### The error an issue reports -/

/-- The order of R206 for a command that reads a source stream, with its bits per block as R97 gives them. -/
theorem firstError_stream {i : Instr} {s : State} (inBits outBits : Nat) (stream : isStream i = true)
    (hin : blockIn i s = inBits) (hout : blockOut i s = outBits) :
    firstError i s =
      if (bufFields i).1 = (bufFields i).2 then some .illegalCommand
      else if needsBuilt i = true ∧ s.built = false then some .notBuilt
      else if badParameter i s then some .invalidParameter
      else if badShape i s then some .dimensionMismatch
      else if s.len.toNat % inBits ≠ 0 then some .lengthMismatch
      else if 65536 < s.len.toNat ∨ 65536 < s.len.toNat / inBits * outBits then some .capacity
      else none := by
  simp [firstError, badLength, badCapacity, stream, hin, hout, wf_eq_false_iff]

/-- Blocks that do not grow need no more room than the source stream (R205). -/
theorem capacity_of_le {len inBits outBits : Nat} (h : outBits ≤ inBits) :
    (65536 < len ∨ 65536 < len / inBits * outBits) ↔ 65536 < len :=
  or_iff_left_of_imp fun output =>
    output.trans_le ((Nat.mul_le_mul_left _ h).trans (Nat.div_mul_le_self len inBits))

/-- K ≤ N, also while nothing is built and both are 0 (R23, R24). -/
theorem State.Inv.dim_le_len {s : State} (hs : s.Inv) : s.K.toNat ≤ s.N.toNat := by
  cases built : s.built with
  | false =>
    obtain ⟨hK, -⟩ := hs.notBuilt built
    simp [hK]
  | true =>
    obtain ⟨hr, -, hK, hN⟩ := hs.isBuilt built
    exact hK ▸ hN ▸ codeDim_le_codeLen hr

/-- The tests INTERLEAVE and DEINTERLEAVE share, that of a frame of no rows or no columns first (R190, R192). -/
theorem frameChecks_eq_error_iff (op : Opcode) (src dst : Buf) (s : State) (e : ErrCode) :
    frameChecks op src dst s = .error e ↔ firstError (.interleave src dst) s = some e := by
  rw [firstError_stream (s.irows.toNat * s.icols.toNat) (s.irows.toNat * s.icols.toNat) rfl rfl rfl]
  simp [frameChecks, distinctBufs, needsBuilt, badParameter, badShape, bufFields, capacity_of_le, ← BitVec.toNat_inj,
    Config.bufBits, ite_eq_iff]

/-- The ordered checks of every command fail with the first error of the tables (R204 to R206): test by test they ask
the same. The commands whose blocks do not grow leave out the test of their output's length (`capacity_of_le`). -/
theorem issueChecks_eq_error_iff {s : State} (hs : s.Inv) (i : Instr) (e : ErrCode) :
    issueChecks i s = .error e ↔ firstError i s = some e := by
  cases i with
  | build src dst =>
    simp [issueChecks, buildChecks, firstError, Instr.wf, needsBuilt, badParameter, badShape, badLength, badCapacity,
      isStream, Config.mMax, ite_eq_iff]
  | encode src dst =>
    rw [firstError_stream s.K.toNat s.N.toNat rfl rfl rfl]
    simp [issueChecks, encodeChecks, distinctBufs, needsBuilt, badParameter, badShape, bufFields, Config.bufBits,
      ite_eq_iff]
  | matvec src dst =>
    rw [firstError_stream s.grows.toNat s.gcols.toNat rfl rfl rfl]
    simp [issueChecks, matvecChecks, distinctBufs, needsBuilt, badParameter, badShape, bufFields, Config.gramMax,
      Config.bufBits, ite_eq_iff, or_assoc, and_assoc]
  | transmit src dst =>
    rw [firstError_stream 1 1 rfl rfl rfl]
    simp [issueChecks, transmitChecks, distinctBufs, needsBuilt, badParameter, badShape, bufFields, Nat.mod_one,
      Config.peOne, Config.bufBits, ite_eq_iff]
  | decode src dst =>
    rw [firstError_stream s.N.toNat s.K.toNat rfl rfl rfl]
    simp [issueChecks, decodeChecks, distinctBufs, needsBuilt, badParameter, badShape, bufFields,
      capacity_of_le hs.dim_le_len, Config.bufBits, ite_eq_iff]
  | interleave src dst => exact frameChecks_eq_error_iff .interleave src dst s e
  | deinterleave src dst => exact frameChecks_eq_error_iff .deinterleave src dst s e
  | checks src dst =>
    rw [firstError_stream s.N.toNat (syndromeLen s.BR.toNat s.BM.toNat) rfl rfl rfl]
    simp [issueChecks, checksChecks, distinctBufs, needsBuilt, badParameter, badShape, bufFields, Config.bufBits,
      ite_eq_iff]

/-- Settles O9: the checks fail with the first error of the tables (`issueChecks_eq_error_iff`), and a failed issue
writes ERR and DONE over what every issue clears. -/
theorem firstErrorIsReported : Obligations.FirstErrorIsReported := by
  intro s i e hs hb he
  rw [exec_eq, (issueChecks_eq_error_iff hs i e).mpr he, issue_error hb]
  rfl

/-! ### The end of a running command -/

/-- Settles O11: with a command running, the request completes it as aborted (`sequencerStep_abort`). -/
theorem abortEndsTheCommand : Obligations.AbortEndsTheCommand := by
  intro s hb ha
  obtain ⟨c, hc⟩ := (State.busy_true_iff s).mp hb
  rw [sequencerStep_abort hc ha]
  rfl

/-- A block step completes the command exactly when it is the last of the T block steps (R201). -/
theorem State.Running.sequencerStep_eq {s : State} {c : Latched} (hr : s.Running c) (hc : s.lc = some c)
    (ha : s.abortPending = false) :
    sequencerStep s =
      if s.blocks.toNat + 1 = c.T then ((blockStep c s.blocks.toNat s).countBlock c).complete false
      else (blockStep c s.blocks.toNat s).countBlock c := by
  simp only [sequencerStep_block hc ha, State.countBlock_blocks, blockStep_blocks, hr.blocks_succ]

/-- Settles O12: the block step is the last one or it is not, and neither count wraps, because T and the whole output
are at most 65536 (`State.Running.blocks_succ`, `State.Running.outlen_succ`). -/
theorem sequencerStepCountsBlocks : Obligations.SequencerStepCountsBlocks := by
  intro s c hs hc ha
  obtain ⟨hr, done, aborted, err⟩ := hs.running c hc
  have blocks := hr.blocks_succ
  have outlen : (s.outlen + BitVec.ofNat 32 c.OB).toNat = s.outlen.toNat + c.OB := by
    rw [hr.outlen_succ, hr.outlen, Nat.succ_mul]
  simp only [hr.sequencerStep_eq hc ha]
  split
  · next last =>
    exact ⟨by simpa using blocks, by simpa using outlen, by simpa using err, by simp, by simp, by simp,
      fun _ => ⟨rfl, rfl⟩, fun more => absurd last more, by constructor <;> simp⟩
  · next more =>
    exact ⟨by simpa using blocks, by simpa using outlen, by simpa using err, by simp, by simpa using aborted,
      by simpa using ha, fun last => absurd last more, fun _ => ⟨by simpa using hc, by simpa using done⟩,
      by constructor <;> simp⟩

/-- An idle machine with DONE set stays so, whatever the sequencer does. -/
theorem sequencerRun_completed {s : State} (idle : s.busy = false) (done : s.done = true) (n : Nat) :
    (sequencerRun n s).busy = false ∧ (sequencerRun n s).done = true := by
  rw [sequencerRun_idle ((State.busy_false_iff s).mp idle)]
  exact ⟨idle, done⟩

/-- A running command is over after the block steps it still has (R201): each step ends it or leaves one less. -/
theorem sequencerRun_ends {s : State} {c : Latched} {n : Nat} (hs : s.Inv) (hc : s.lc = some c)
    (enough : c.T - s.blocks.toNat ≤ n) : (sequencerRun n s).busy = false ∧ (sequencerRun n s).done = true := by
  induction n generalizing s with
  | zero =>
    have left : s.blocks.toNat < c.T := (hs.running c hc).1.next
    omega
  | succ n ih =>
    rw [sequencerRun]
    cases ha : s.abortPending with
    | true =>
      rw [sequencerStep_abort hc ha]
      exact sequencerRun_completed rfl rfl n
    | false =>
      obtain ⟨blocks, -, -, -, -, -, ends, runs, -⟩ := sequencerStepCountsBlocks s c hs hc ha
      by_cases last : s.blocks.toNat + 1 = c.T
      · obtain ⟨idle, done⟩ := ends last
        exact sequencerRun_completed idle done n
      · exact ih (sequencerStep_keeps_inv hs) (runs last).1 (by omega)

/-- Settles O13: a running command has at most 65536 block steps left, and ends with the last of them
(`sequencerRun_ends`). -/
theorem commandEndsWithinItsBlocks : Obligations.CommandEndsWithinItsBlocks := by
  refine ⟨fun s c n hs hc enough => sequencerRun_ends hs hc enough, fun s n hs hn => ?_⟩
  cases hc : s.lc with
  | none =>
    rw [sequencerRun_idle hc]
    exact (State.busy_false_iff s).mpr hc
  | some c =>
    have count : c.T ≤ 65536 := (hs.running c hc).1.count
    exact (sequencerRun_ends hs hc (by omega)).1

end Sys2Proof.Machine

/-! PROOF. Reset (O47, O52), and host writes to registers while a command runs (O51). A register write changes only what
the host keeps for later commands (`State.withHostSide`); such a difference stays one through every sequencer step
(`SequencerSimulation`), because a block step reads its operands from the latched record (R44, R241). -/

namespace Sys2Proof.Machine

/-! ### Reset -/

/-- The invariant does not speak of the surroundings. -/
theorem State.Inv.withEnv {s : State} (h : s.Inv) (e : Env) : State.Inv { s with env := e } :=
  QuietAccess.keeps_inv (s := s) ⟨⟨rfl, rfl, rfl, rfl, rfl⟩, ⟨rfl, rfl, rfl⟩, rfl, rfl, rfl, id, .inl⟩ h h.memory

/-- Settles O47: the state after reset is what the reset input leaves (`resetBlock_inv`), up to the surroundings. -/
theorem invariantHoldsAtReset : Obligations.InvariantHoldsAtReset :=
  (resetBlock_inv .reset).withEnv State.reset.env

/-- ID is constant and every other register reads 0 after reset (R230). -/
theorem readReg_reset (r : Reg) : State.reset.readReg r = if r = .id then 0x524D0001#32 else 0#32 := by
  cases r <;> decide

/-- No register shows the surroundings, in which alone a reset differs from the state after reset. -/
theorem readReg_resetBlock (s : State) (r : Reg) : s.resetBlock.readReg r = State.reset.readReg r := by
  cases r <;> rfl

/-- Settles O52: the reset input leaves `State.resetBlock`. -/
theorem resetGivesTheResetState : Obligations.ResetGivesTheResetState := by
  intro s rest h
  exact ⟨(s.withInputs rest).resetBlock, step_input h, fun r => (readReg_resetBlock _ r).trans (readReg_reset r), rfl, rfl,
    rfl, rfl⟩

/-! ### Simulations of the sequencer -/

/-- A relation that every sequencer step keeps: related states are at the same block of the same command, and stay
related by its block step and by its completion (R201). -/
structure SequencerSimulation (rel : State → State → Prop) : Prop where
  lc : ∀ {s t}, rel s t → t.lc = s.lc
  abortPending : ∀ {s t}, rel s t → t.abortPending = s.abortPending
  blocks : ∀ {s t}, rel s t → t.blocks = s.blocks
  complete : ∀ {s t}, rel s t → ∀ b, rel (s.complete b) (t.complete b)
  block : ∀ {s t}, rel s t → ∀ c k, rel ((blockStep c k s).countBlock c) ((blockStep c k t).countBlock c)

section
variable {rel : State → State → Prop} {s t : State}

theorem SequencerSimulation.step (sim : SequencerSimulation rel) (h : rel s t) :
    rel (sequencerStep s) (sequencerStep t) := by
  cases hlc : s.lc with
  | none => rwa [sequencerStep_idle hlc, sequencerStep_idle ((sim.lc h).trans hlc)]
  | some c =>
    have hlc' := (sim.lc h).trans hlc
    cases ha : s.abortPending with
    | true =>
      rw [sequencerStep_abort hlc ha, sequencerStep_abort hlc' ((sim.abortPending h).trans ha)]
      exact sim.complete h true
    | false =>
      have next := sim.block h c s.blocks.toNat
      rw [sequencerStep_block hlc ha, sequencerStep_block hlc' ((sim.abortPending h).trans ha), sim.blocks h,
        sim.blocks next]
      split
      · exact sim.complete next false
      · exact next

theorem SequencerSimulation.run (sim : SequencerSimulation rel) (n : Nat) (h : rel s t) :
    rel (sequencerRun n s) (sequencerRun n t) := by
  induction n with
  | zero => exact h
  | succ n ih =>
    rw [sequencerRun_succ, sequencerRun_succ]
    exact sim.step ih

end

/-! ### Register writes while a command runs -/

/-- `s` with the registers of R241 (CFG, GSHAPE, PE, ILV, LEN and IRQEN), the inputs and the last response of `h`: none
of it is an operand of the running command. -/
def State.withHostSide (s h : State) : State :=
  { s with
    cfgM := h.cfgM, cfgR := h.cfgR, grows := h.grows, gcols := h.gcols, pe := h.pe, irows := h.irows
    icols := h.icols, len := h.len, ie := h.ie
    env := { s.env with inputs := h.env.inputs, response := h.env.response } }

/-- Two states that differ at most in the host's side. -/
def DifferInHostSide (s t : State) : Prop := ∃ h, t = s.withHostSide h

/-- A block step reads nothing of the host's side, and writes of it only GSHAPE, in BUILD (R44, R110). -/
theorem blockStep_withHostSide (c : Latched) (k : Nat) (s h : State) :
    blockStep c k (s.withHostSide h) = (blockStep c k s).withHostSide (blockStep c k (s.withHostSide h)) := by
  unfold blockStep
  cases c.op <;> rfl

theorem differInHostSide_simulation : SequencerSimulation DifferInHostSide where
  lc := by rintro s _ ⟨h, rfl⟩; rfl
  abortPending := by rintro s _ ⟨h, rfl⟩; rfl
  blocks := by rintro s _ ⟨h, rfl⟩; rfl
  complete := by rintro s _ ⟨h, rfl⟩ b; exact ⟨h, rfl⟩
  block := by
    rintro s _ ⟨h, rfl⟩ c k
    exact ⟨_, congrArg (State.countBlock · c) (blockStep_withHostSide c k s h)⟩

/-- A host write to one of the registers of R241 changes nothing but the host's side. -/
theorem storeReg_differInHostSide (s : State) (v : Word) {r : Reg}
    (hr : r ∈ [Reg.cfg, .gshape, .pe, .ilv, .len, .irqen]) : DifferInHostSide s ((s.storeReg r v).respond .written) := by
  refine ⟨(s.storeReg r v).respond .written, ?_⟩
  simp only [List.mem_cons, List.not_mem_nil, or_false] at hr
  obtain rfl | rfl | rfl | rfl | rfl | rfl := hr <;> rfl

/-! ### CFG -/

/-- `s` with other fields in CFG (R22). -/
def State.withCfg (s : State) (M R : BitVec 4) : State := { s with cfgM := M, cfgR := R }

/-- No command but BUILD checks or latches CFG (R110, R241). -/
theorem issueChecks_withCfg {i : Instr} (h : isStream i = true) (s : State) (M R : BitVec 4) :
    issueChecks i (s.withCfg M R) = issueChecks i s := by
  cases i with
  | build => exact Bool.noConfusion h
  | _ => rfl

/-- An issue whose checks are given neither reads nor writes CFG (R200). -/
theorem issue_withCfg (s : State) (M R : BitVec 4) (checks : Except ErrCode Latched) :
    (s.withCfg M R).issue checks = (s.issue checks).withCfg M R := by
  cases hb : s.busy with
  | true => rw [issue_busy hb, issue_busy (s := s.withCfg M R) hb]; rfl
  | false =>
    cases checks with
    | error e => rw [issue_error hb, issue_error (s := s.withCfg M R) hb]; rfl
    | ok c =>
      rw [issue_ok hb, issue_ok (s := s.withCfg M R) hb]
      by_cases hT : c.T = 0
      · rw [accept_empty _ hT, accept_empty _ hT]; rfl
      · rw [accept_running _ hT, accept_running _ hT]; rfl

/-- No issue but BUILD's depends on CFG (R241). -/
theorem exec_withCfg {i : Instr} (h : isStream i = true) {s t : State} (ht : exec i s = .next t) (M R : BitVec 4) :
    exec i (s.withCfg M R) = .next (t.withCfg M R) := by
  rw [exec_eq] at ht ⊢
  cases ht
  rw [issueChecks_withCfg h, issue_withCfg]

/-- A block step neither reads nor writes CFG (R44): BUILD has latched it. -/
theorem blockStep_withCfg (c : Latched) (k : Nat) (s : State) (M R : BitVec 4) :
    blockStep c k (s.withCfg M R) = (blockStep c k s).withCfg M R := by
  unfold blockStep
  cases c.op <;> rfl

theorem withCfg_simulation (M R : BitVec 4) : SequencerSimulation fun s t => t = s.withCfg M R where
  lc := by rintro s _ rfl; rfl
  abortPending := by rintro s _ rfl; rfl
  blocks := by rintro s _ rfl; rfl
  complete := by rintro s _ rfl b; rfl
  block := by
    rintro s _ rfl c k
    exact congrArg (State.countBlock · c) (blockStep_withCfg c k s M R)

/-- Settles O51: the write changes the host's side only, which no sequencer step carries into the command
(`differInHostSide_simulation`); and the issue checks of a stream command and the sequencer leave CFG alone. -/
theorem registerWritesDoNotReachTheCommand : Obligations.RegisterWritesDoNotReachTheCommand := by
  refine ⟨fun s v n _ r hr => ?_, fun s t M R i hi ht => exec_withCfg hi ht M R,
    fun s M R => (withCfg_simulation M R).step rfl⟩
  have hcmd : r ≠ .cmd := by rintro rfl; simp at hr
  obtain ⟨h, run⟩ := differInHostSide_simulation.run n (storeReg_differInHostSide s v hr)
  refine ⟨(s.storeReg r v).respond .written, hostWrite_reg s v hcmd, ?_, ?_, ?_, ?_, ?_, ?_, ?_⟩
  · rintro rfl; exact ⟨rfl, rfl⟩
  · rintro rfl; exact ⟨rfl, rfl⟩
  · rintro rfl; rfl
  · rintro rfl; exact ⟨rfl, rfl⟩
  · rintro rfl; rfl
  · rintro rfl; exact ⟨rfl, rfl⟩
  · simp only [run]
    exact ⟨rfl, ⟨rfl, rfl, rfl⟩, ⟨rfl, rfl, rfl, rfl⟩, ⟨rfl, rfl, rfl, rfl, rfl⟩, ⟨rfl, rfl⟩, rfl, rfl⟩

end Sys2Proof.Machine
